-- ==== Sys2Proof/Word.lean ====
section
/-!
DEFINITION. The bit widths of the machine's values, at the spec's default widths `W_PORT = 8`, `W_ADDR = 16`,
`W_CNT = 16` (00_scope.md R8; log entry 2). All values are unsigned (00_scope.md section 5).
-/
namespace Sys2Proof

/-- A buffer byte, a brightness, a corrected brightness (8 bits). -/
abbrev Byte := BitVec 8

/-- A buffer address, `W_ADDR = 16` bits (R8). -/
abbrev Addr := BitVec 16

/-- The `count` operand of a command word, `W_CNT = 16` bits (R8). -/
abbrev Count := BitVec 16

/-- A frame's byte count and the register `CNT`, `W_CNT + 2 = 18` bits (R8, R26, R86). -/
abbrev ByteCount := BitVec 18

/-- A value of the port, of its direction register or of a pin mask, `W_PORT = 8` bits (R8). -/
abbrev Port := BitVec 8

/-- The command word `cmd_word`, 48 bits at the default widths (R81). -/
abbrev CommandWord := BitVec 48

end Sys2Proof
end

