-- ==== Sys2Proof/Config.lean ====
section
/-!
DEFINITION. The configuration record `Config` (00_scope.md section 3): what one build of the hardware fixes. What is
computed from it (counts, diagnostic, laws) is in Machine/Timing.lean; the build itself, which nothing can evaluate,
is in Machine/Build.lean.
-/
namespace Sys2Proof

/-- The three widths of R8, any positive numbers; this machine is at the defaults (log entry 2). They give the layout of
a command word at other widths (30_encoding.md R81). -/
structure Widths where
  /-- `W_PORT`. -/
  port : Nat := 8
  /-- `W_ADDR`. -/
  addr : Nat := 16
  /-- `W_CNT`. -/
  cnt : Nat := 16
deriving DecidableEq, Repr

/-- The length of a command word: an 8-bit `op` and the three fields, with no gaps (R81). -/
abbrev Widths.bits (W : Widths) : Nat := 8 + W.port + W.cnt + W.addr

/-- The implementation parameters (R6, R7, R9 to R12). The five OPEN ones have no default; the pulse times and the
two thresholds have the spec's defaults (R9, R10; log entry 17) and may be overridden. -/
structure Config where
  /-- `F_CLK`, the clock frequency in hertz (R6, OPEN). -/
  fClk : Nat
  /-- `PIN`, the output pin, a bit index of the port (R7, OPEN). -/
  pin : Fin 8
  /-- `T_RESET_RGB_US`, the RGB families' idle time in microseconds (R11, OPEN). -/
  tResetRgbUs : Nat
  /-- `T_RESET_RGBW_US`, the RGBW family's idle time in microseconds (R11, OPEN). -/
  tResetRgbwUs : Nat
  /-- `DIM`, the 256 entries of the dimming table, entry 0 first (R12, OPEN). -/
  dim : List Byte
  /-- `T_ZERO_NS` (R9). -/
  tZeroNs : Nat := 350
  /-- `T_ONE_NS` (R9). -/
  tOneNs : Nat := 900
  /-- `T_TOTAL_NS` (R9). -/
  tTotalNs : Nat := 1250
  /-- `T_ZERO_FATAL_NS`, the longest zero pulse the build accepts (R10). -/
  tZeroFatalNs : Nat := 550
  /-- `T_ZERO_WARN_NS`, the start of the marginal band (R10). -/
  tZeroWarnNs : Nat := 450
deriving DecidableEq, Repr

end Sys2Proof
end

