-- ==== Sys2Proof/Syntax.lean ====
section
/-!
DEFINITION. What the machine executes: the four commands of the host and the three symbols of the wire
(30_encoding.md R80), one constructor per row of spec/opcode_table.json. In an accepted cycle the engine executes a
command; in every cycle of a frame it executes the symbol the wire carries (log entry 10).
-/
namespace Sys2Proof

/-- One constructor per row of the opcode table (R80, R82, R89, R90). -/
inductive Instr where
  /-- `correct idx` (R100). -/
  | correct (idx : Byte)
  /-- `transmit addr, n, mask` (R130). -/
  | transmit (addr : Addr) (n : Count) (mask : Port)
  /-- `show_rgb addr, npix` (R170). -/
  | showRgb (addr : Addr) (npix : Count)
  /-- `show_rgbw addr, npix` (R171). -/
  | showRgbw (addr : Addr) (npix : Count)
  /-- The wire symbol `SYM0` (R89): one cycle of a 0 bit. -/
  | sym0
  /-- The wire symbol `SYM1` (R89): one cycle of a 1 bit. -/
  | sym1
  /-- The wire symbol `RESET` (R90): one cycle of the line held low. -/
  | reset
deriving DecidableEq, Repr

/-- The two pixel formats, each with its idle time (43_adapters.md R175). -/
inductive Family where
  /-- Three-byte records: WS2811, WS2812, WS2812B. -/
  | rgb
  /-- Four-byte records: SK6812RGBW. -/
  | rgbw
deriving DecidableEq, Repr

end Sys2Proof
end

