-- ==== Sys2Proof/Machine/Timing.lean ====
section
/-!
DEFINITION. The build-time functions of `Config`: the clock-to-cycle-count derivation, the two diagnostics, the hold
lengths (41_timing_derivation.md), the dimming lookup and the laws of a legal `Config`. All arithmetic is on unbounded
naturals and `/` is floor division (R122).
-/
namespace Sys2Proof

/-- `cyc(T_ns)`: the number of clock cycles nearest to a time, an exact half rounded up (R111). -/
def Config.cyc (c : Config) (tNs : Nat) : Nat := (tNs * c.fClk + 500000000) / 1000000000

/-- The window `W1`, from the rising edge to the fall of a 0 (R112). -/
def Config.w1 (c : Config) : Nat := max (c.cyc c.tZeroNs) 1

/-- The window `W2`, from there to the fall of a 1 (R113); the subtraction saturates at 0. -/
def Config.w2 (c : Config) : Nat := max (c.cyc c.tOneNs - c.w1) 1

/-- The window `W3`, the low rest of the bit period (R114); the subtraction saturates at 0. -/
def Config.w3 (c : Config) : Nat := max (c.cyc c.tTotalNs - c.w1 - c.w2) 1

/-- The clamp of a window is active: the derivation alone would give it no cycle (R112 to R115). -/
def Config.clampsW1 (c : Config) : Bool := c.cyc c.tZeroNs == 0

def Config.clampsW2 (c : Config) : Bool := c.cyc c.tOneNs - c.w1 == 0

def Config.clampsW3 (c : Config) : Bool := c.cyc c.tTotalNs - c.w1 - c.w2 == 0

/-- `N_ZERO`, the high cycles of a 0 (R115). -/
def Config.nZero (c : Config) : Nat := c.w1

/-- `N_ONE`, the high cycles of a 1 (R115). -/
def Config.nOne (c : Config) : Nat := c.w1 + c.w2

/-- `N_TOTAL`, the cycles of a bit period (R115). -/
def Config.nTotal (c : Config) : Nat := c.w1 + c.w2 + c.w3

/-- The high cycles of the symbol of bit `b`: `N_ONE` or `N_ZERO` (R89, R139). -/
def Config.highCycles (c : Config) (b : Bool) : Nat := if b then c.nOne else c.nZero

/-- The ceiling of `a / 10^6` (R121). -/
def ceilMillion (a : Nat) : Nat := (a + 999999) / 1000000

/-- `N_RESET_RGB`: the idle time is a minimum, so it rounds up (R121). -/
def Config.nResetRgb (c : Config) : Nat := ceilMillion (c.tResetRgbUs * c.fClk)

/-- `N_RESET_RGBW` (R121). -/
def Config.nResetRgbw (c : Config) : Nat := ceilMillion (c.tResetRgbwUs * c.fClk)

/-- `N_RESET` of a device family (R121, R175). -/
def Config.nReset (c : Config) : Family → Nat
  | .rgb => c.nResetRgb
  | .rgbw => c.nResetRgbw

/-- The pulse times have the spec's default values (R9). -/
abbrev Config.defaultTimes (c : Config) : Prop := c.tZeroNs = 350 ∧ c.tOneNs = 900 ∧ c.tTotalNs = 1250

/-- The two thresholds have the spec's default values (R10; log entry 17). -/
abbrev Config.defaultThresholds (c : Config) : Prop := c.tZeroFatalNs = 550 ∧ c.tZeroWarnNs = 450

/-- A realised time in nanoseconds, an exact rational: `n * 10^9 / F_CLK` (R116). -/
def Config.realisedNs (c : Config) (n : Nat) : Rat := mkRat (n * 1000000000) c.fClk

/-- The build-time diagnostic `DIAG` (10_state.md R45). -/
inductive Diag where
  | ok
  | advisory
  | fatal
deriving DecidableEq, Repr

/-- `DIAG`: Fatal is tested first and is strict, the advisory band is closed at both ends (R117 to R120). -/
def Config.diag (c : Config) : Diag :=
  if c.tZeroFatalNs * c.fClk < c.nZero * 1000000000 then .fatal
  else if c.tZeroWarnNs * c.fClk ≤ c.nZero * 1000000000 then .advisory
  else .ok

/-- What the build reports for a diagnostic: name, code and, with Fatal, the values recorded with it
(60_exceptions.md R181, R182). -/
structure DiagReport where
  name : String
  code : Nat
  /-- `F_CLK`, `N_ZERO` and the realised `t_zero`, recorded with Fatal only (R181). -/
  values : Option (Nat × Nat × Rat)
deriving DecidableEq, Repr

/-- What is reported for a diagnostic, given the values recorded with Fatal (R181, R182). -/
def Diag.report (values : Nat × Nat × Rat) : Diag → Option DiagReport
  | .ok => none
  | .advisory => some { name := "W_TIMING_MARGINAL", code := 2, values := none }
  | .fatal => some { name := "E_CLOCK_TOO_SLOW", code := 1, values := some values }

/-- The report of a build: nothing for `OK`, a warning or a failure otherwise (R180 to R182). -/
def Config.report (c : Config) : Option DiagReport :=
  c.diag.report (c.fClk, c.nZero, c.realisedNs c.nZero)

/-- Each entry is at most the next one. -/
def nondecreasing : List Byte → Bool
  | a :: b :: rest => decide (a ≤ b) && nondecreasing (b :: rest)
  | _ => true

/-- The laws of a dimming table: 256 entries, L1 monotone, L2 `DIM[0] = 0`, L3 `DIM[255] = 255`
(40_dimming.md R101). -/
def dimLaws (d : List Byte) : Bool :=
  d.length == 256 && nondecreasing d && d.getD 0 1#8 == 0#8 && d.getD 255 0#8 == 255#8

/-- The lookup `DIM[b]` (R100, R103). -/
def Config.dimAt (c : Config) (b : Byte) : Byte := c.dim.getD b.toNat 0#8

/-- A `Config` for which hardware exists: a positive clock, the constraint on the thresholds (R10), the idle times in
`50 .. 280` (R11), a legal table (R101), and a build that does not fail (R6, R117, R181). -/
def Config.wf (c : Config) : Bool :=
  decide (0 < c.fClk)
    && decide (c.tZeroNs ≤ c.tZeroWarnNs) && decide (c.tZeroWarnNs ≤ c.tZeroFatalNs)
    && decide (c.tZeroFatalNs < c.tOneNs)
    && decide (50 ≤ c.tResetRgbUs) && decide (c.tResetRgbUs ≤ 280)
    && decide (50 ≤ c.tResetRgbwUs) && decide (c.tResetRgbwUs ≤ 280)
    && dimLaws c.dim && decide (c.diag ≠ .fatal)

end Sys2Proof
end

