-- ==== Sys2Proof/Machine/Build.lean ====
section
/-!
DEFINITION. A build: a `Config` together with the proof that hardware exists for it, and the one build this machine
is, which nothing can evaluate. "No hardware exists for a Fatal `Config`" (41_timing_derivation.md R117): no value of
`Build` holds one, so no state and no step exist over it (60_exceptions.md R181).
-/
namespace Sys2Proof

/-- A witness that some `Config` is well formed; it is used only to show that `Build` has a value. -/
def Config.witness : Config :=
  { fClk := 8000000, pin := 0, tResetRgbUs := 280, tResetRgbwUs := 280
    dim := (List.range 256).map (BitVec.ofNat 8) }

theorem Config.witness_wf : Config.witness.wf = true := by decide +kernel

/-- A well-formed `Config` (R6, R117). -/
structure Build where
  cfg : Config := Config.witness
  ok : cfg.wf = true := by exact Config.witness_wf
deriving DecidableEq, Repr, Inhabited

/-- FREE VALUE. The build this machine is: `F_CLK`, `PIN`, `DIM`, the idle times are OPEN (R6, R7, R11, R12; 93 U13,
U14), so nothing constrains it but its being well formed. No body: no proof can see what it is (log entry 1). -/
opaque Config.build : Build

end Sys2Proof
end

