-- ==== Sys2Proof/Machine/State.lean ====
section
/-!
DEFINITION. The state of the machine as plain data (10_state.md R20), the state after reset (R43), and the reasons a
step can stop.
-/
namespace Sys2Proof.Machine

/-- `ST`, the sequencer state (R21); its code 3 is never written, so it is no value here (log entry 13). -/
inductive Seq where
  /-- No command in progress (code 0). -/
  | idle
  /-- A frame is being emitted (code 1). -/
  | send
  /-- An adapter's idle time is being counted (code 2). -/
  | hold
deriving DecidableEq, Repr

/-- Buffer memory: the launch memory of 20_memory.md R67, address and byte, addresses strictly rising. An unlisted
address is not in the launch memory and has no value (log entry 6). -/
abbrev Memory := List Host.Cell

/-- What the host writes in a cycle with `BUSY = 0` (42_transmit.md R138; 30_encoding.md R94; R32, R33). -/
inductive HostWrite where
  /-- One byte of buffer memory; the address is in the launch memory from then on. -/
  | poke (addr : Addr) (b : Byte)
  /-- The interrupt enable `IE`. -/
  | setIe (v : Bool)
  /-- The output register `PORT`. -/
  | setPort (v : Port)
  /-- The direction register `DDR`. -/
  | setDdr (v : Port)
deriving DecidableEq, Repr

/-- What the host does in one of its cycles (70 R221, R222; log entry 7). -/
inductive HostMove where
  /-- `cmd_valid = 1` with this command word. -/
  | command (w : CommandWord)
  /-- `cmd_valid = 0`; the host makes these writes, in order. -/
  | idle (writes : List HostWrite)
deriving DecidableEq, Repr

/-- What an agent other than the host drives on the engine's inputs in one cycle (R44, 70 R200; log entry 8). -/
structure OutsideDrive where
  /-- The reset input `rst`. -/
  rst : Bool
  /-- A command word with `cmd_valid = 1`, or no command. -/
  cmd : Option CommandWord
deriving DecidableEq, Repr

/-- The state in one cycle. -/
structure State where
  /-- `ST` (R21). -/
  st : Seq
  /-- `SR`, the shift register (R22). -/
  sr : Byte
  /-- `BITN`, bits of the byte still to be sent after the current one (R23). -/
  bitn : BitVec 3
  /-- `CYC`, the cycle inside the bit period (R24; log entry 14). -/
  cyc : Nat
  /-- `PTR`, the address of the next buffer byte (R25). -/
  ptr : Addr
  /-- `CNT`, buffer bytes still to be read (R26). -/
  cnt : ByteCount
  /-- `MASK`, the pin mask latched at acceptance (R27). -/
  mask : Port
  /-- `HOLDN`, the hold length latched at acceptance (R28; log entry 14). -/
  holdn : Nat
  /-- `RCNT`, hold cycles still to run (R29; log entry 14). -/
  rcnt : Nat
  /-- `IE_SAVE` (R30). -/
  ieSave : Bool
  /-- `PORT` (R32). -/
  port : Port
  /-- `DDR` (R33). -/
  ddr : Port
  /-- `IE` (R34). -/
  ie : Bool
  /-- Buffer memory (R37 (a)). -/
  mem : Memory
  /-- What `resp` carried in the cycle of the last step; none where it was not valid (R44, R95; log entry 5). -/
  resp : Option Byte
  /-- `WAVE`, one `(PORT, DDR)` sample per cycle, oldest first (00 R16, R40). -/
  wave : List (Port × Port)
  /-- The model's own field: the build, a constant (R20; log entry 1). -/
  build : Build
  /-- The model's own field: the host's moves still to come (70 R222; log entry 7). -/
  host : List HostMove
  /-- The model's own field: what other agents drive, one entry per cycle from this one on; quiet after the last
  (log entry 8). -/
  outside : List OutsideDrive
deriving DecidableEq, Repr

/-- The machine right after reset (R43, 70 R201): `ST = IDLE`, no address in the launch memory, nothing pending. The
spec gives no value for the other registers: the values of `SR` to `IE_SAVE` are log entry 3, those of `PORT`, `DDR`,
`IE` log entry 4. -/
def State.reset : State :=
  { st := .idle
    sr := 0#8, bitn := 0#3, cyc := 0, ptr := 0#16, cnt := 0#18, mask := 0#8, holdn := 0, rcnt := 0, ieSave := false
    port := 0#8, ddr := 0#8, ie := true
    mem := []
    resp := none, wave := []
    build := Config.build, host := [], outside := [] }

/-- Why a step stops with a fault. "A model's step function for an admitted command is total and never faults"
(60_exceptions.md R183): each of these is raised only in a state that a rule of the spec says does not occur, so each
is safe (log entry 12). -/
inductive Fault where
  /-- Raised by a `SEND` cycle with `CYC >= N_TOTAL`, which R24 rules out: no step rule covers it. Safe. -/
  | cycOutOfRange
  /-- Raised by a `HOLD` cycle with `RCNT = 0`, which R137 rules out: no step rule covers it. Safe. -/
  | rcntZero
  /-- Raised by a byte load of a `SEND` cycle from an address outside the launch memory, which admission (R68)
  rules out. Safe. -/
  | byteNotInLaunchMemory
deriving DecidableEq, Repr

/-- Why a step is refused: the closed list of 60_exceptions.md R184, and two reasons of the model's own. A refused
run has no end state and no claim holds of it, so each is safe (log entry 11). -/
inductive Refusal where
  /-- Raised by a step with `cmd_valid = 1` while `BUSY = 1`, and by a command executed while busy (R85 (d)). Safe. -/
  | commandWhileBusy
  /-- Raised by a step that is presented a reserved `op` (R84). Safe. -/
  | reservedOpcode (op : BitVec 8)
  /-- Raised by a frame command with `count = 0` (R85 (a)). Safe. -/
  | zeroCount
  /-- Raised by `TRANSMIT` with a mask that is not one-hot (R85 (b)). Safe. -/
  | badMask
  /-- Raised by a frame command whose buffer wraps or leaves the launch memory (R85 (c), R68). Safe. -/
  | bufferNotAdmitted
  /-- Raised by a step with `rst = 1` while `BUSY = 1` (70 R202). Safe. -/
  | resetWhileBusy
  /-- The model's own: raised by `exec` given a wire symbol in a state in which the wire does not carry it; no step
  does so (log entry 10). Safe. -/
  | symbolNotOnWire
  /-- The model's own: an instruction without a meaning; no arm of `exec` answers it. Safe. -/
  | notModelled (mnemonic : String)
deriving DecidableEq, Repr

/-- What an instruction's meaning answers. -/
abbrev Result := Host.Outcome State Fault Refusal

/-- The configuration of the state's build. -/
abbrev State.cfg (s : State) : Config := s.build.cfg

end Sys2Proof.Machine
end

