-- ==== Sys2Proof/Machine/Flags.lean ====
section
/-!
DEFINITION. The flags. `BUSY` is the only status flag of the block and is derived (10_state.md R31); there are no
condition codes. The host's `IE` is saved and cleared at acceptance and restored at the end of a frame
(R30, R34; 60_exceptions.md R185, R189).
-/
namespace Sys2Proof.Machine

/-- The code of `ST` (R21). -/
def Seq.code : Seq → BitVec 2
  | .idle => 0#2
  | .send => 1#2
  | .hold => 2#2

/-- `BUSY = (ST != IDLE)` (R31). -/
def State.busy (s : State) : Bool := s.st != .idle

/-- `IE_SAVE <- IE; IE <- 0` (42_transmit.md R132). -/
def State.disableInterrupts (s : State) : State := { s with ieSave := s.ie, ie := false }

/-- `IE <- IE_SAVE`: it restores, it does not enable (42_transmit.md R136, 60_exceptions.md R189). -/
def State.restoreInterrupts (s : State) : State := { s with ie := s.ieSave }

end Sys2Proof.Machine
end

