-- ==== Sys2Proof/Machine/Operands.lean ====
section
/-!
DEFINITION. The operand forms of the frame commands (30_encoding.md R86): byte count, pin mask, hold length; and the
operand checks of admission that need no memory (R85, 42_transmit.md R131).
-/
namespace Sys2Proof.Machine

/-- The byte count of `TRANSMIT`: `n = count`, at 18 bits (R86). -/
def byteCountTransmit (n : Count) : ByteCount := n.setWidth 18

/-- The byte count of `SHOW_RGB`: `n = 3 * count`, at 18 bits, which cannot wrap (R86, R173). -/
def byteCountRgb (npix : Count) : ByteCount := 3#18 * npix.setWidth 18

/-- The byte count of `SHOW_RGBW`: `n = 4 * count`, at 18 bits, which cannot wrap (R86, R173). -/
def byteCountRgbw (npix : Count) : ByteCount := 4#18 * npix.setWidth 18

/-- Bytes in one pixel record of a format (R86, R91). -/
def recordWidth : Family → Nat
  | .rgb => 3
  | .rgbw => 4

/-- `PINMASK = 1 << PIN`, the mask of the two adapters (R7, R86, R174). -/
def pinMask (c : Config) : Port := 1#8 <<< c.pin.val

/-- A legal mask has exactly one bit set (R85 (b)). -/
def oneHot (m : Port) : Bool := (List.range 8).countP (fun i => m.getLsbD i) == 1

/-- The buffer does not wrap through the top of the address space: `addr + n <= 2^16` (20_memory.md R68).
The model's choice where the spec's texts differ (log entry 26): 43_adapters.md R173 calls the largest `npix` admitted
"only at `addr = 0`", but this condition also admits `show_rgb 0x0001, 21845`, whose sum is exactly `2^16`. -/
def fits (a : Addr) (n : ByteCount) : Bool := decide (a.toNat + n.toNat ≤ 65536)

end Sys2Proof.Machine
end

