-- ==== Sys2Proof/Machine/Ops.lean ====
section
/-!
DEFINITION. The named operations over memory and registers, and the step rules of the pulse sequencer
(42_transmit.md section 2), shared by every command. There is no operation that takes an exception: at run time the
block has none (60_exceptions.md R183, R188).
-/
namespace Sys2Proof.Machine

/-- `MemRead(a, 1)`: the byte at an address, none outside the launch memory (20_memory.md R60, R67). -/
def Memory.read : Memory → Nat → Option Byte
  | [], _ => none
  | (x, v) :: rest, a => if x = a then some v else Memory.read rest a

/-- The host writes one byte; the canonical form is kept (30_encoding.md R94). -/
def Memory.write : Memory → Nat → Byte → Memory
  | [], a, b => [(a, b)]
  | (x, v) :: rest, a, b =>
    if a < x then (a, b) :: (x, v) :: rest
    else if a = x then (a, b) :: rest
    else (x, v) :: Memory.write rest a b

/-- The canonical form: addresses strictly rising, none outside the address space (R37 (a)). An unlisted address has
no value, so no entry equals what one reads as. -/
abbrev Memory.wf (m : Memory) : Prop := m.Pairwise (fun c d => c.1 < d.1) ∧ ∀ c ∈ m, c.1 < 65536

/-- Admission of a command's reads: the buffer does not wrap and lies in the launch memory (20_memory.md R68). -/
def admitted (m : Memory) (a : Addr) (n : ByteCount) : Bool :=
  fits a n && (List.range n.toNat).all (fun i => (m.read (a.toNat + i)).isSome)

/-- `PORT <- PORT | m` (10_state.md R32). -/
def State.driveHigh (s : State) (m : Port) : State := { s with port := s.port ||| m }

/-- `DDR <- DDR | m` (10_state.md R33). -/
def State.setOutput (s : State) (m : Port) : State := { s with ddr := s.ddr ||| m }

/-- The acceptance step's writes, given the first byte (42_transmit.md R132). -/
def State.latchFrame (s : State) (a : Addr) (n : ByteCount) (m : Port) (h : Nat) (first : Byte) : State :=
  { ((s.disableInterrupts.setOutput m).driveHigh m) with
    mask := m
    holdn := h
    sr := s.cfg.dimAt first
    ptr := a + 1#16
    cnt := n - 1#18
    bitn := 7#3
    cyc := 0
    st := .send }

/-- A frame command: admission, in the order of 60_exceptions.md R184, then acceptance (42_transmit.md R131, R132).
`count` is the command's count field, `n` its byte count, `m` its mask, `h` its hold length. -/
def acceptFrame (count : Count) (a : Addr) (n : ByteCount) (m : Port) (h : Nat) (s : State) : Result :=
  if s.busy then .refused .commandWhileBusy
  else if count = 0#16 then .refused .zeroCount
  else if !oneHot m then .refused .badMask
  else if !admitted s.mem a n then .refused .bufferNotAdmitted
  else
    match s.mem.read a.toNat with
    | none => .refused .bufferNotAdmitted
    | some first => .next (s.latchFrame a n m h first)

/-- The pin falls at the end of this step: the end of `W1` in a bit of value 0, and the end of `W2` in either
(42_transmit.md R133). -/
def State.falls (s : State) (b : Bool) : Bool :=
  (s.cyc + 1 == s.cfg.nZero && !b) || s.cyc + 1 == s.cfg.nOne

/-- A step inside a bit of value `b`: the three windows (42_transmit.md R133). -/
def State.insideBit (s : State) (b : Bool) : State :=
  { s with cyc := s.cyc + 1, port := if s.falls b then s.port &&& ~~~s.mask else s.port }

/-- The step at the end of a bit, inside a byte (42_transmit.md R134). -/
def State.nextBit (s : State) : State :=
  { s.driveHigh s.mask with sr := s.sr <<< 1, bitn := s.bitn - 1#3, cyc := 0 }

/-- The step at the end of a byte, given the byte loaded (42_transmit.md R135). -/
def State.nextByte (s : State) (b : Byte) : State :=
  { s.driveHigh s.mask with
    sr := s.cfg.dimAt b, ptr := s.ptr + 1#16, cnt := s.cnt - 1#18, bitn := 7#3, cyc := 0 }

/-- The step at the end of the frame (42_transmit.md R136). -/
def State.endFrame (s : State) : State :=
  { s.restoreInterrupts with
    st := if s.holdn = 0 then .idle else .hold
    rcnt := if s.holdn = 0 then s.rcnt else s.holdn }

/-- One `SEND` cycle of a bit of value `b` (42_transmit.md R133 to R136). -/
def sendCycle (b : Bool) (s : State) : Result :=
  if s.cyc + 1 < s.cfg.nTotal then .next (s.insideBit b)
  else if s.cyc + 1 = s.cfg.nTotal then
    if s.bitn ≠ 0#3 then .next s.nextBit
    else if s.cnt ≠ 0#18 then
      match s.mem.read s.ptr.toNat with
      | none => .fault .byteNotInLaunchMemory
      | some byte => .next (s.nextByte byte)
    else .next s.endFrame
  else .fault .cycOutOfRange

/-- The step of a `HOLD` cycle with `RCNT >= 1` (42_transmit.md R137). -/
def State.holdStep (s : State) : State :=
  { s with rcnt := s.rcnt - 1, st := if s.rcnt - 1 = 0 then .idle else .hold }

/-- One `HOLD` cycle (42_transmit.md R137). -/
def holdCycle (s : State) : Result :=
  if s.rcnt = 0 then .fault .rcntZero else .next s.holdStep

end Sys2Proof.Machine
end

