-- ==== Sys2Proof/Machine/Adapters.lean ====
section
/-!
DEFINITION. The meanings of the pixel-format adapters `SHOW_RGB` and `SHOW_RGBW` (43_adapters.md R170 to R174).
-/
namespace Sys2Proof.Machine

/-- `SHOW_RGB addr, npix`: `3 * npix` bytes on the build's pin, then the RGB families' hold (R170, R172, R174). -/
def execShowRgb (addr : Addr) (npix : Count) (s : State) : Result :=
  acceptFrame npix addr (byteCountRgb npix) (pinMask s.cfg) s.cfg.nResetRgb s

/-- `SHOW_RGBW addr, npix`: `4 * npix` bytes on the build's pin, then the RGBW family's hold (R171, R172, R174). -/
def execShowRgbw (addr : Addr) (npix : Count) (s : State) : Result :=
  acceptFrame npix addr (byteCountRgbw npix) (pinMask s.cfg) s.cfg.nResetRgbw s

end Sys2Proof.Machine
end

