-- ==== Sys2Proof/Machine/Correct.lean ====
section
/-!
DEFINITION. The meaning of `CORRECT` (40_dimming.md R100).
-/
namespace Sys2Proof.Machine

/-- `CORRECT idx`: `resp <- DIM[idx]` in the acceptance cycle; nothing else is written (R100). -/
def execCorrect (idx : Byte) (s : State) : Result :=
  if s.busy then .refused .commandWhileBusy
  else .next { s with resp := some (s.cfg.dimAt idx) }

end Sys2Proof.Machine
end

