-- ==== Sys2Proof/Machine/Symbols.lean ====
section
/-!
DEFINITION. The meanings of the wire symbols (30_encoding.md R89, R90): one cycle of the symbol the wire carries, with
the sequencer step of that cycle (42_transmit.md R133 to R138; log entry 10).
-/
namespace Sys2Proof.Machine

/-- The wire carries the symbol of bit `b`: a frame is being sent and `SR[7]` is `b` (R22, R88). -/
def State.carries (s : State) (b : Bool) : Bool := s.st == .send && s.sr.msb == b

/-- One cycle of `SYM0`: high for `N_ZERO` cycles of `N_TOTAL` (R89, R133 to R136). -/
def execSym0 (s : State) : Result :=
  if s.carries false then sendCycle false s else .refused .symbolNotOnWire

/-- One cycle of `SYM1`: high for `N_ONE` cycles of `N_TOTAL` (R89, R133 to R136). -/
def execSym1 (s : State) : Result :=
  if s.carries true then sendCycle true s else .refused .symbolNotOnWire

/-- One cycle of `RESET` (R90). After an adapter's frame the engine emits it as a `HOLD` cycle (R137); after a bare
`TRANSMIT` the host does, by letting an `IDLE` cycle pass in which the engine writes nothing (R138, 70 R204). -/
def execReset (s : State) : Result :=
  match s.st with
  | .hold => holdCycle s
  | .idle => .next s
  | .send => .refused .symbolNotOnWire

end Sys2Proof.Machine
end

