-- ==== Sys2Proof/Machine/Transmit.lean ====
section
/-!
DEFINITION. The meaning of `TRANSMIT` (42_transmit.md R130 to R132).
-/
namespace Sys2Proof.Machine

/-- `TRANSMIT addr, n, mask`: the frame of `n` bytes on the pin of `mask`, with no hold (R130, R86). -/
def execTransmit (addr : Addr) (n : Count) (mask : Port) (s : State) : Result :=
  acceptFrame n addr (byteCountTransmit n) mask 0 s

end Sys2Proof.Machine
end

