-- ==== Sys2Proof/Machine/Dispatch.lean ====
section
/-!
DEFINITION. The meaning of every instruction: one arm per constructor.
-/
namespace Sys2Proof.Machine

def exec (i : Instr) (s : State) : Host.Outcome State Fault Refusal :=
  match i with
  | .correct idx => Sys2Proof.Machine.execCorrect idx s
  | .transmit addr n mask => Sys2Proof.Machine.execTransmit addr n mask s
  | .showRgb addr npix => Sys2Proof.Machine.execShowRgb addr npix s
  | .showRgbw addr npix => Sys2Proof.Machine.execShowRgbw addr npix s
  | .sym0 => Sys2Proof.Machine.execSym0 s
  | .sym1 => Sys2Proof.Machine.execSym1 s
  | .reset => Sys2Proof.Machine.execReset s

end Sys2Proof.Machine
end

