-- ==== Sys2Proof/Decode.lean ====
section
/-!
DEFINITION. The two encodings (30_encoding.md): the 48-bit command word, decoder and encoder (R81 to R84), and the
wire format, levels of the pin in consecutive cycles, decoder and encoder (R87 to R90). Both decoders are total.
-/
namespace Sys2Proof

/-- The four fields of a command word at any widths, each an unsigned number at its own width (R81). -/
structure CommandFields (W : Widths) where
  op : BitVec 8
  mask : BitVec W.port
  count : BitVec W.cnt
  addr : BitVec W.addr
deriving DecidableEq, Repr

/-- The fields of a command word at any widths: `addr` lowest, `op` highest (R81). -/
def fieldsOf (W : Widths) (w : BitVec W.bits) : CommandFields W :=
  { op := w.extractLsb' (W.addr + W.cnt + W.port) 8
    mask := w.extractLsb' (W.addr + W.cnt) W.port
    count := w.extractLsb' W.addr W.cnt
    addr := w.extractLsb' 0 W.addr }

/-- The command word of four fields at any widths, packed with no gaps (R81). -/
def wordOf (W : Widths) (f : CommandFields W) : BitVec W.bits := ((f.op ++ f.mask) ++ f.count) ++ f.addr

/-- The field `op`, bits 47:40 (R81). -/
def opField (w : CommandWord) : BitVec 8 := w.extractLsb' 40 8

/-- The field `mask`, bits 39:32 (R81). -/
def maskField (w : CommandWord) : Port := w.extractLsb' 32 8

/-- The field `count`, bits 31:16 (R81). -/
def countField (w : CommandWord) : Count := w.extractLsb' 16 16

/-- The field `addr`, bits 15:0 (R81). -/
def addrField (w : CommandWord) : Addr := w.extractLsb' 0 16

/-- The table index of `CORRECT`, bits 7:0 (R81, R82). -/
def idxField (w : CommandWord) : Byte := w.extractLsb' 0 8

/-- Why a command word has no instruction. -/
inductive DecodeError where
  /-- `op` is not one of `0x01 .. 0x04` (R84). -/
  | reservedOpcode (op : BitVec 8)
deriving DecidableEq, Repr

/-- The decoder of the command word (R82); the fields a command does not use are ignored (R83). -/
def decodeCommand (w : CommandWord) : Except DecodeError Instr :=
  if opField w = 0x01#8 then .ok (.correct (idxField w))
  else if opField w = 0x02#8 then .ok (.transmit (addrField w) (countField w) (maskField w))
  else if opField w = 0x03#8 then .ok (.showRgb (addrField w) (countField w))
  else if opField w = 0x04#8 then .ok (.showRgbw (addrField w) (countField w))
  else .error (.reservedOpcode (opField w))

/-- The four fields packed with no gaps, `op` highest (R81). -/
def commandWord (op : BitVec 8) (mask : Port) (count : Count) (addr : Addr) : CommandWord :=
  ((op ++ mask) ++ count) ++ addr

/-- The encoder of the commands, unused fields 0 (R93). A wire symbol has no command word (R80). -/
def encodeCommand : Instr → Option CommandWord
  | .correct idx => some (commandWord 0x01#8 0#8 0#16 (idx.setWidth 16))
  | .transmit a n m => some (commandWord 0x02#8 m n a)
  | .showRgb a npix => some (commandWord 0x03#8 0#8 npix a)
  | .showRgbw a npix => some (commandWord 0x04#8 0#8 npix a)
  | .sym0 => none
  | .sym1 => none
  | .reset => none

/-- The command word of an instruction of `nbits` bits whose bits are `w`, every higher bit 0; none where the
instruction would be longer than a command word. -/
def tableWord (nbits w : Nat) : Option CommandWord :=
  if nbits ≤ 48 then some (BitVec.ofNat 48 (w % 2 ^ nbits)) else none

/-- The instruction the decoder reads from an instruction numbered as spec/opcode_table.json numbers it: the command
word is presented whole, so bit `i` of `w` is bit `i` of `cmd_word` (log entry 16). -/
def decodeTableWord (nbits w : Nat) : Option Instr :=
  match tableWord nbits w with
  | none => none
  | some word =>
    match decodeCommand word with
    | .ok i => some i
    | .error _ => none

/-- The level string of the symbol of bit `b`: `1^H 0^(N_TOTAL - H)` (R89). -/
def symLevels (c : Config) (b : Bool) : List Bool :=
  List.replicate (c.highCycles b) true ++ List.replicate (c.nTotal - c.highCycles b) false

/-- The symbol of a data bit (R88). -/
def bitSymbol (b : Bool) : Instr := if b then .sym1 else .sym0

/-- The bits of a byte in the order they are sent, most significant first (R88). -/
def sendOrder (b : Byte) : List Bool :=
  [b.getLsbD 7, b.getLsbD 6, b.getLsbD 5, b.getLsbD 4, b.getLsbD 3, b.getLsbD 2, b.getLsbD 1, b.getLsbD 0]

/-- The symbol string of a frame: each buffer byte corrected, then its eight bits (R87, R88, R103). -/
def frameBits (c : Config) (bytes : List Byte) : List Bool :=
  bytes.flatMap (fun b => sendOrder (c.dimAt b))

/-- The level string of a frame: its symbols with nothing between them (R87). -/
def frameLevels (c : Config) (bytes : List Byte) : List Bool :=
  (frameBits c bytes).flatMap (symLevels c)

/-- The encoder of the wire symbols; `RESET` at its shortest for the device family (R89, R90). -/
def encodeWire (c : Config) (f : Family) : Instr → Option (List Bool)
  | .correct _ => none
  | .transmit _ _ _ => none
  | .showRgb _ _ => none
  | .showRgbw _ _ => none
  | .sym0 => some (symLevels c false)
  | .sym1 => some (symLevels c true)
  | .reset => some (List.replicate (c.nReset f) false)

/-- The decoder of one wire symbol: a bit period of one of the two shapes, or the line low for at least the family's
idle time (R89, R90). -/
def decodeWire (c : Config) (f : Family) (levels : List Bool) : Option Instr :=
  if levels = symLevels c false then some .sym0
  else if levels = symLevels c true then some .sym1
  else if levels.all (fun l => !l) && decide (c.nReset f ≤ levels.length) then some .reset
  else none

end Sys2Proof
end

