-- ==== Sys2Proof/Machine/Inputs.lean ====
section
/-!
DEFINITION. What a cycle does before anything is executed: the engine's inputs are sampled (10_state.md R44, 70 R200),
the host makes its move if it is not stalled (00 R15, 42_transmit.md R138), and the instruction of the cycle is
found: the command presented while idle, the symbol on the wire while busy.
-/
namespace Sys2Proof.Machine

/-- One host write (R138, R94; 10_state.md R32 to R34). -/
def State.hostWrite (s : State) : HostWrite → State
  | .poke a b => { s with mem := s.mem.write a.toNat b }
  | .setIe v => { s with ie := v }
  | .setPort v => { s with port := v }
  | .setDdr v => { s with ddr := v }

/-- The host's writes of one cycle, in order (log entry 7). -/
def State.hostWrites (s : State) (ws : List HostWrite) : State := ws.foldl State.hostWrite s

/-- What other agents drive in this cycle; quiet after the last entry (log entry 8). -/
def State.drive (s : State) : OutsideDrive := s.outside.headD { rst := false, cmd := none }

/-- The cycle's bookkeeping: `(PORT, DDR)` is appended to `WAVE` (42_transmit.md section 2), `resp` is not valid
unless this cycle's command drives it (R44), and the cycle's outside inputs are used up. -/
def State.sample (s : State) : State :=
  { s with wave := s.wave ++ [(s.port, s.ddr)], resp := none, outside := s.outside.tail }

/-- What a cycle turns out to be. -/
inductive Cycle where
  /-- The instruction `i` is executed in the state `t`. -/
  | run (i : Instr) (t : State)
  /-- Nothing is executed; `t` is the state of the next cycle. -/
  | quiet (t : State)
  /-- The model gives the cycle no step (60_exceptions.md R184). -/
  | refuse (r : Refusal)
deriving DecidableEq, Repr

/-- A command word presented while idle (30_encoding.md R80, R82, R84). -/
def present (w : CommandWord) (t : State) : Cycle :=
  match decodeCommand w with
  | .ok i => .run i t
  | .error (.reservedOpcode op) => .refuse (.reservedOpcode op)

/-- An idle cycle, or an accepted command: the host's move, unless another agent uses the command interface
(42_transmit.md R138, 60_exceptions.md R187; log entry 8). -/
def idleCycle (d : OutsideDrive) (t : State) : Cycle :=
  match d.cmd with
  | some w => present w t
  | none =>
    match t.host with
    | [] => .quiet t
    | .idle ws :: rest => .quiet ({ t with host := rest }.hostWrites ws)
    | .command w :: rest => present w { t with host := rest }

/-- A cycle with `rst = 1` while idle: `ST <- IDLE` and nothing else; the command presented in it is ignored
(70 R200, R201). The host's own writes of the cycle still happen (log entry 9). -/
def resetCycle (t : State) : State :=
  match t.host with
  | [] => { t with st := .idle }
  | .idle ws :: rest => { t with st := .idle, host := rest }.hostWrites ws
  | .command _ :: rest => { t with st := .idle, host := rest }

/-- The symbol the wire carries while a frame is sent (30_encoding.md R88, 10_state.md R22). -/
def State.symbol (s : State) : Instr := bitSymbol s.sr.msb

/-- What this cycle is. While busy the host is stalled: its moves wait (00 R15, R31); a command from another agent is
refused before it is decoded (R184, order 1), and a reset is refused (70 R202). The model's choice (log entry 27):
with `rst = 1` and a command in the same busy cycle the answer is `resetWhileBusy`, since `cmd_valid` is ignored then
(70 R200), although the table of R184 numbers `CommandWhileBusy` first. -/
def fetch (s : State) : Cycle :=
  if s.drive.rst then
    if s.busy then .refuse .resetWhileBusy else .quiet (resetCycle s.sample)
  else
    match s.st with
    | .idle => idleCycle s.drive s.sample
    | .send => if s.drive.cmd.isSome then .refuse .commandWhileBusy else .run s.symbol s.sample
    | .hold => if s.drive.cmd.isSome then .refuse .commandWhileBusy else .run .reset s.sample

/-- The host actions of a run as the spec writes them: a command, or one of the three directives (R94). -/
inductive Directive where
  | command (w : CommandWord)
  /-- `poke addr, b0 b1 ...`. -/
  | poke (addr : Addr) (bytes : List Byte)
  /-- `idle k`. -/
  | idle (k : Nat)
  /-- `set IE = v`. -/
  | setIe (v : Bool)
deriving DecidableEq, Repr

/-- The bytes of a `poke` at consecutive addresses. -/
def pokeWrites (addr : Addr) : List Byte → List HostWrite
  | [] => []
  | b :: rest => .poke addr b :: pokeWrites (addr + 1#16) rest

/-- Writes are carried out in the idle cycle the host is in, or in one of their own (moves newest first). -/
def addWrites (ws : List HostWrite) : List HostMove → List HostMove
  | .idle vs :: rest => .idle (vs ++ ws) :: rest
  | moves => .idle ws :: moves

/-- One directive added to the moves so far, newest first (R94). -/
def addDirective (moves : List HostMove) : Directive → List HostMove
  | .command w => .command w :: moves
  | .poke a bs => addWrites (pokeWrites a bs) moves
  | .idle k => List.replicate k (.idle []) ++ moves
  | .setIe v => addWrites [.setIe v] moves

/-- The host's moves for a list of host actions: a directive is carried out in a cycle with `BUSY = 0` before the next
command is presented, in the last cycle of the `idle` before it where there is one (R94, 95 programs P3, P6). -/
def hostMoves (ds : List Directive) : List HostMove := (ds.foldl addDirective []).reverse

end Sys2Proof.Machine
end

