-- ==== Sys2Proof/Machine/Step.lean ====
section
/-!
DEFINITION. One step: one period of `clk` (00_scope.md R14).
-/
namespace Sys2Proof.Machine

/-- The cycle is found (`fetch`) and its instruction executed. -/
def step (s : State) : Host.Outcome State Fault Refusal :=
  match fetch s with
  | .run i t => exec i t
  | .quiet t => .next t
  | .refuse r => .refused r

/-- `s` with the command word numbered as spec/opcode_table.json numbers it presented by the host in this cycle, so
that the next step executes it: the engine idle and no other agent driving its inputs (log entry 15). -/
def State.withFetchWord (s : State) (nbits w : Nat) : State :=
  match tableWord nbits w with
  | none => s
  | some word =>
    { s with
      st := .idle
      host := .command word :: s.host
      outside := { rst := false, cmd := none } :: s.outside }

end Sys2Proof.Machine
end

