-- ==== Sys2Proof/Machine/Wave.lean ====
section
/-!
DEFINITION. The observation `WAVE` and the views derived from it: the level of a pin, the pulse count, the symbol
string (00_scope.md R16), and how long the line has been low (30_encoding.md R90, 70 R222). No step reads `WAVE`
(10_state.md R40).
-/
namespace Sys2Proof.Machine

/-- The levels of output pin `p` in consecutive cycles: bit `p` of each cycle's `PORT` (R16). -/
def pinLevels (p : Fin 8) (wave : List (Port × Port)) : List Bool := wave.map (fun x => x.1.getLsbD p.val)

/-- The pulse count: rising edges in a level string, given the level before it (R16, R141). -/
def risingEdges : Bool → List Bool → Nat
  | _, [] => 0
  | before, l :: rest => (if !before && l then 1 else 0) + risingEdges l rest

/-- The symbol string of a level string for a device family, `fuel` symbols and low times at most (R16, R87 to R90). A
high level starts a bit period of `N_TOTAL` cycles, which must have one of the two shapes. A low level outside a bit
period starts a low time, which lasts to the next high level: a `RESET` if it has at least `N_RESET` cycles, no symbol
otherwise (log entry 28). The last symbol's own low phase belongs to that symbol and is not counted (R90). -/
def symbolString (c : Config) (f : Family) : Nat → List Bool → Option (List Instr)
  | _, [] => some []
  | 0, _ :: _ => none
  | fuel + 1, true :: rest =>
    let period := (true :: rest).take c.nTotal
    let others := symbolString c f fuel ((true :: rest).drop c.nTotal)
    if period = symLevels c false then others.map (.sym0 :: ·)
    else if period = symLevels c true then others.map (.sym1 :: ·)
    else none
  | fuel + 1, false :: rest =>
    let others := symbolString c f fuel (rest.dropWhile (fun l => !l))
    if c.nReset f ≤ (rest.takeWhile (fun l => !l)).length + 1 then others.map (.reset :: ·)
    else others

/-- The symbol string of a whole level string: it has at most as many symbols and low times as levels (R16). -/
def levelSymbols (c : Config) (f : Family) (levels : List Bool) : Option (List Instr) :=
  symbolString c f levels.length levels

/-- The line has ended with at least `k` low cycles, so that a chain whose idle time is `k` cycles has latched the
frame before them (70 R222: counted from the last falling edge, log entry 25). -/
def endsLow (k : Nat) (levels : List Bool) : Bool :=
  decide (k ≤ levels.length) && (levels.drop (levels.length - k)).all (fun l => !l)

/-- The samples a command's `SEND` cycles show: the masked pins carry the level string, the other bits of `PORT` keep
the value `p` they had at acceptance, `DDR` has the masked bits set (42_transmit.md R140 (b)). -/
def frameSamples (p d m : Port) (levels : List Bool) : List (Port × Port) :=
  levels.map (fun l => (if l then p ||| m else p &&& ~~~m, d ||| m))

/-- The bytes at `a, a + 1, ...`, `n` of them, none if one is outside the launch memory. -/
def Memory.bytes (m : Memory) : Nat → Nat → Option (List Byte)
  | _, 0 => some []
  | a, n + 1 =>
    match m.read a, Memory.bytes m (a + 1) n with
    | some b, some rest => some (b :: rest)
    | _, _ => none

end Sys2Proof.Machine
end

