-- ==== Sys2Proof/Safety.lean ====
section
/-!
DEFINITION. What counts as a safe run, in the terms the statements use: runs of several steps, the invariant of the
machine, the premises of 70_reset_and_hazards.md R203 and R204, and the end of a run (R222).
-/
namespace Sys2Proof

/-- The three symbols of the wire, which no command word spells (30_encoding.md R80). -/
def Instr.onWire : Instr → Bool
  | .sym0 => true
  | .sym1 => true
  | .reset => true
  | .correct _ => false
  | .transmit _ _ _ => false
  | .showRgb _ _ => false
  | .showRgbw _ _ => false

/-- The frame commands (42_transmit.md R131). -/
def Instr.sendsFrame : Instr → Bool
  | .transmit _ _ _ => true
  | .showRgb _ _ => true
  | .showRgbw _ _ => true
  | .correct _ => false
  | .sym0 => false
  | .sym1 => false
  | .reset => false

/-- A frame command's operands as numbers (30_encoding.md R86): its count field, base address, byte count, pin mask
and hold length. -/
structure FrameOperands where
  count : Count
  addr : Addr
  bytes : Nat
  mask : Port
  hold : Nat
deriving DecidableEq, Repr

/-- The operands of each frame command, the adapters on the build's pin (R86, 43_adapters.md R170, R171, R174). -/
def Instr.frameOperands (c : Config) : Instr → Option FrameOperands
  | .transmit a n m => some { count := n, addr := a, bytes := n.toNat, mask := m, hold := 0 }
  | .showRgb a n =>
    some { count := n, addr := a, bytes := 3 * n.toNat, mask := 1#8 <<< c.pin.val, hold := c.nResetRgb }
  | .showRgbw a n =>
    some { count := n, addr := a, bytes := 4 * n.toNat, mask := 1#8 <<< c.pin.val, hold := c.nResetRgbw }
  | .correct _ => none
  | .sym0 => none
  | .sym1 => none
  | .reset => none

end Sys2Proof

namespace Sys2Proof.Machine

/-- `k` steps, stopping at the first fault or refusal. -/
def steps : Nat → State → Result
  | 0, s => .next s
  | k + 1, s =>
    match step s with
    | .next t => steps k t
    | .fault r => .fault r
    | .refused r => .refused r

/-- No other agent drives the engine's inputs, now or later (00 R15: "There is no other agent"). -/
abbrev State.quietInputs (s : State) : Prop := s.outside = []

/-- The host, or another agent, presents the command word `w` in this idle cycle, and `t` is the state the command is
executed in: the cycle sampled, the host's move used up (10_state.md R44, 30_encoding.md R80). -/
abbrev State.presents (s : State) (w : CommandWord) (t : State) : Prop :=
  s.st = .idle ∧ s.drive.rst = false ∧
    ((s.drive.cmd = some w ∧ t = s.sample)
      ∨ (s.drive.cmd = none ∧ s.host.head? = some (.command w) ∧ t = { s.sample with host := s.host.tail }))

/-- The bytes a frame has still to read are in the launch memory and do not wrap (20_memory.md R68). -/
abbrev State.restAdmitted (s : State) : Prop :=
  s.cnt = 0#18 ∨ admitted s.mem s.ptr s.cnt = true

/-- The level law: the masked pins are high if and only if `CYC < H` (42_transmit.md R139). -/
abbrev State.levelLaw (s : State) : Prop :=
  s.port &&& s.mask = if s.cyc < s.cfg.highCycles s.sr.msb then s.mask else 0#8

/-- A latched hold length is one of the three of R28. -/
abbrev State.holdnLegal (s : State) : Prop :=
  s.holdn = 0 ∨ s.holdn = s.cfg.nResetRgb ∨ s.holdn = s.cfg.nResetRgbw

/-- What holds in every `SEND` cycle: `CYC` in range (R24), `IE = 0` (R143), one masked pin (R85), an output (R33),
the level law (R139), the rest of the buffer readable (R68). -/
abbrev State.sendInv (s : State) : Prop :=
  s.cyc < s.cfg.nTotal ∧ s.ie = false ∧ oneHot s.mask = true ∧ s.ddr &&& s.mask = s.mask ∧ s.levelLaw
    ∧ s.holdnLegal ∧ s.restAdmitted

/-- What holds in every `HOLD` cycle: `1 <= RCNT <= HOLDN` (R29, R137), the masked pin an output and low (R137,
R142). -/
abbrev State.holdInv (s : State) : Prop :=
  1 ≤ s.rcnt ∧ s.rcnt ≤ s.holdn ∧ oneHot s.mask = true ∧ s.ddr &&& s.mask = s.mask ∧ s.port &&& s.mask = 0#8
    ∧ s.holdnLegal

/-- The invariant of the machine: memory in canonical form, `RCNT` in the range of R29, and what each state of the
sequencer promises. -/
abbrev State.Inv (s : State) : Prop :=
  s.mem.wf ∧ s.rcnt ≤ max s.cfg.nResetRgb s.cfg.nResetRgbw
    ∧ (s.st = .send → s.sendInv) ∧ (s.st = .hold → s.holdInv)

/-- The cycles a command has still to run with `BUSY = 1`: the rest of the bit period, of the byte, of the frame, and
the hold (42_transmit.md R140, R146). -/
def State.remaining (s : State) : Nat :=
  match s.st with
  | .idle => 0
  | .send => ((8 * s.cnt.toNat + s.bitn.toNat + 1) * s.cfg.nTotal - s.cyc) + s.holdn
  | .hold => s.rcnt

/-- The linear index of a `SEND` cycle of a frame of `n` bytes (10_state.md R35). -/
def State.position (s : State) (n : Nat) : Nat :=
  ((n - 1 - s.cnt.toNat) * 8 + (7 - s.bitn.toNat)) * s.cfg.nTotal + s.cyc

/-- The boot premises that are read off one state: idle, and the pin of the mask low if it is already an output (70
R203 (b) and the first half of (d)). The model's choice (log entry 30): this follows the words of R203 (d); the
premise of U8, D16 and the table of R43, which ask for the pin low whatever `DDR` holds, is `State.pinLow`. -/
def State.bootReady (s : State) (m : Port) : Bool :=
  s.st == .idle && (s.port &&& s.ddr &&& m) == 0#8

/-- The premise of a claim about the wire: idle, and the pin of the mask low at acceptance, whatever `DDR` holds (93
U8, 92 D16, 10_state.md R43). Stronger than `State.bootReady` (log entry 30). -/
def State.pinLow (s : State) (m : Port) : Bool :=
  s.st == .idle && (s.port &&& m) == 0#8

/-- The observation of a run that ends in the cycle `s`: `WAVE` up to and including that cycle (70 R222; log entry
29). `s.wave` holds the cycles before it. -/
def State.observation (s : State) : List (Port × Port) := s.wave ++ [(s.port, s.ddr)]

/-- The host has paid the idle time of a device family on pin `p` (70 R204, 93 U9): the cycles so far end in a
`RESET`, counted from the end of the last bit period as R204 and R90 say. The model's choice between R204 and R222,
which counts from the last falling edge: log entry 25. All of `WAVE` is read from its first cycle, so a wave with a
high level that is no bit period at any time before has no symbol string and never counts as paid: the model's choice,
log entry 31. -/
def State.idlePaid (s : State) (f : Family) (p : Fin 8) : Bool :=
  match levelSymbols s.cfg f (pinLevels p s.wave) with
  | none => false
  | some symbols => symbols.getLast? == some .reset

/-- The LED chain of a device family on pin `p` has latched the last frame in the run that ends in this cycle: the
observation ends with the pin low for at least `N_RESET` cycles after the last falling edge (70 R222; log entry 25).
-/
def State.latched (s : State) (f : Family) (p : Fin 8) : Bool :=
  endsLow (s.cfg.nReset f) (pinLevels p s.observation)

/-- Every action of the host has been carried out and `ST = IDLE` (70 R222). -/
def State.runOver (s : State) : Bool := s.host.isEmpty && s.st == .idle

/-- The end state of the run from `s`: the state in the first cycle in which the run is over, looked for in this cycle
and the next `fuel` ones; none where a refusal or a fault comes first (70 R222). -/
def runEnd : Nat → State → Option State
  | 0, s => if s.runOver then some s else none
  | fuel + 1, s =>
    if s.runOver then some s
    else
      match step s with
      | .next t => runEnd fuel t
      | .fault _ => none
      | .refused _ => none

/-- A run: a start state (with its build, which is never Fatal) and a finite list of host actions (70 R222). -/
def runOf (fuel : Nat) (s : State) (actions : List Directive) : Option State :=
  runEnd fuel { s with host := hostMoves actions }

/-- What a host write gives `IE`, `PORT`, `DDR`, or the byte at address `x`. -/
def HostWrite.ie : HostWrite → Option Bool
  | .setIe v => some v
  | .poke _ _ => none
  | .setPort _ => none
  | .setDdr _ => none

def HostWrite.port : HostWrite → Option Port
  | .setPort v => some v
  | .poke _ _ => none
  | .setIe _ => none
  | .setDdr _ => none

def HostWrite.ddr : HostWrite → Option Port
  | .setDdr v => some v
  | .poke _ _ => none
  | .setIe _ => none
  | .setPort _ => none

def HostWrite.byteAt (x : Nat) : HostWrite → Option Byte
  | .poke a b => if a.toNat = x then some b else none
  | .setIe _ => none
  | .setPort _ => none
  | .setDdr _ => none

/-- What the last of a cycle's host writes to one place wrote there, none where none of them writes it. -/
def lastWrite {α : Type} (f : HostWrite → Option α) (ws : List HostWrite) : Option α := (ws.filterMap f).getLast?

/-- Two states that differ at most in the engine registers a command writes before it reads them (10_state.md R42). -/
abbrev State.agreesOutside (s t : State) : Prop :=
  s.port = t.port ∧ s.ddr = t.ddr ∧ s.ie = t.ie ∧ s.mem = t.mem ∧ s.resp = t.resp ∧ s.wave = t.wave
    ∧ s.build = t.build ∧ s.host = t.host ∧ s.outside = t.outside

end Sys2Proof.Machine
end

