-- ==== Sys2Proof/WellFormed.lean ====
section
/-!
DEFINITION. Which instructions are well formed: the operand checks of 30_encoding.md R85 that the command word alone
decides. Whether the buffer lies in the launch memory (R68) depends on the state and is checked at acceptance.
-/
namespace Sys2Proof

open Sys2Proof.Machine

/-- The count is not 0; the mask of `TRANSMIT` is one-hot; the buffer does not wrap (R85 (a), (b), R68). -/
def Instr.wf : Instr → Bool
  | .correct _ => true
  | .transmit a n m => n != 0#16 && oneHot m && fits a (byteCountTransmit n)
  | .showRgb a npix => npix != 0#16 && fits a (byteCountRgb npix)
  | .showRgbw a npix => npix != 0#16 && fits a (byteCountRgbw npix)
  | .sym0 => true
  | .sym1 => true
  | .reset => true

end Sys2Proof
end

