-- ==== Sys2Proof/Certificates/Slice0/Obligations.lean ====
section
/-!
DEFINITION. The statements about the machine, from the spec's numbered rules. Those about executing an instruction are
about `exec`; `StepRunsThePresentedCommand` and `StepRunsTheSymbolOnTheWire` carry them to a step.
-/

open Sys2Proof Sys2Proof.Machine

/-! ### Encodings -/

/-- Words written out from 30_encoding.md R93 and 95_test_vectors.md (V9, V60, V67, V72, V76, P4, V81) decode to the
commands they stand for. -/
def Obligations.CommandWordsOfTheSpecDecode : Prop :=
  decodeCommand 0x0100000000FF#48 = .ok (.correct 255#8)
    ∧ decodeCommand 0x01FFFFFFFFA5#48 = .ok (.correct 165#8)
    ∧ decodeCommand 0x02010001FFFF#48 = .ok (.transmit 0xFFFF#16 1#16 0x01#8)
    ∧ decodeCommand 0x028000010000#48 = .ok (.transmit 0x0000#16 1#16 0x80#8)
    ∧ decodeCommand 0x03FF00010100#48 = .ok (.showRgb 0x0100#16 1#16)
    ∧ decodeCommand 0x040040000000#48 = .ok (.showRgbw 0x0000#16 16384#16)
    ∧ decodeCommand 0x040000020200#48 = .ok (.showRgbw 0x0200#16 2#16)
    ∧ decodeCommand 0x050000010100#48 = .error (.reservedOpcode 0x05#8)

/-- R81, R82: every command, with every operand, has a command word, and the decoder reads that command back from it;
the three symbols of the wire are the only instructions without a command word (R80). -/
def Obligations.DecodingAnEncodedCommandGivesItBack : Prop :=
  ∀ i : Instr, (i.onWire = true ∧ encodeCommand i = none)
    ∨ (i.onWire = false ∧ ∃ w, encodeCommand i = some w ∧ decodeCommand w = .ok i)

/-- R89, R90: for every configuration and family, the level string of each wire symbol decodes to that symbol, and so
does every longer `RESET`. -/
def Obligations.DecodingAnEncodedSymbolGivesItBack : Prop :=
  ∀ (c : Config) (f : Family),
    (∀ (i : Instr) (levels : List Bool), encodeWire c f i = some levels → decodeWire c f levels = some i)
      ∧ ∀ k, c.nReset f ≤ k → decodeWire c f (List.replicate k false) = some .reset

/-- R16, R87 to R90: the symbol string of a frame followed by `k` low cycles is exactly the symbols of the corrected
bits of its bytes, most significant first, bytes in order, and then a `RESET` if and only if `k` is at least `N_RESET`
and not 0 (the last symbol's own low phase is not counted). That a low time shorter than `N_RESET` contributes no
symbol is the model's choice (log entry 28). -/
def Obligations.FrameLevelsReadBackAsTheFrameBits : Prop :=
  ∀ (c : Config) (f : Family) (bytes : List Byte) (k : Nat),
    levelSymbols c f (frameLevels c bytes ++ List.replicate k false)
      = some ((frameBits c bytes).map bitSymbol ++ if 0 < k ∧ c.nReset f ≤ k then [.reset] else [])

/-- R81: at any widths a command word is its four fields, packed with no gaps, `op` highest, each an unsigned number:
the fields read back from the word and the word from its fields; at the default widths they are the bits of the table.
-/
def Obligations.CommandFieldsArePackedWithoutGaps : Prop :=
  (∀ (W : Widths) (f : CommandFields W), fieldsOf W (wordOf W f) = f)
    ∧ (∀ (W : Widths) (w : BitVec W.bits), wordOf W (fieldsOf W w) = w
        ∧ w.toNat = (((fieldsOf W w).op.toNat * 2 ^ W.port + (fieldsOf W w).mask.toNat) * 2 ^ W.cnt
            + (fieldsOf W w).count.toNat) * 2 ^ W.addr + (fieldsOf W w).addr.toNat)
    ∧ ∀ w : CommandWord,
        fieldsOf {} w = { op := opField w, mask := maskField w, count := countField w, addr := addrField w }
          ∧ (opField w).toNat = w.toNat / 2 ^ 40 ∧ (maskField w).toNat = w.toNat / 2 ^ 32 % 2 ^ 8
          ∧ (countField w).toNat = w.toNat / 2 ^ 16 % 2 ^ 16 ∧ (addrField w).toNat = w.toNat % 2 ^ 16
          ∧ (idxField w).toNat = w.toNat % 2 ^ 8

/-- R84: a reserved opcode, presented in an idle cycle by the host or by another agent, is refused by name, whatever
the other fields hold. -/
def Obligations.ReservedOpcodesAreRefused : Prop :=
  ∀ (s t : State) (w : CommandWord), s.presents w t →
    opField w ≠ 0x01#8 → opField w ≠ 0x02#8 → opField w ≠ 0x03#8 → opField w ≠ 0x04#8 →
    step s = .refused (.reservedOpcode (opField w))

/-- R83: the bits of the fields a command does not use do not change what it does. -/
def Obligations.UnusedFieldsAreIgnored : Prop :=
  ∀ (v w : CommandWord), opField v = opField w →
    (opField w = 0x01#8 → idxField v = idxField w → decodeCommand v = decodeCommand w)
      ∧ (opField w = 0x03#8 ∨ opField w = 0x04#8 → countField v = countField w → addrField v = addrField w →
          decodeCommand v = decodeCommand w)

/-! ### The build-time derivation -/

/-- R111: `cyc(T)` is the one number within half a cycle of `T * F_CLK / 10^9`, an exact half rounded up. -/
def Obligations.CycIsTheNearestCycleCount : Prop :=
  ∀ (c : Config) (tNs n : Nat),
    n = c.cyc tNs ↔
      2 * n * 1000000000 ≤ 2 * (tNs * c.fClk) + 1000000000
        ∧ 2 * (tNs * c.fClk) < 2 * n * 1000000000 + 1000000000

/-- R111 to R114 and what the spec derives from them (R115, marked [derived]): the cumulative counts are ordered for
every configuration; where no clamp is active they are the nearest cycle counts of the three times; with the default
times a clamp is active exactly in the two ranges the rule names, and from 1_818_182 Hz on only that of `W3`. -/
def Obligations.CumulativeCountsAndClamps : Prop :=
  (∀ c : Config, c.nZero = c.w1 ∧ c.nOne = c.w1 + c.w2 ∧ c.nTotal = c.w1 + c.w2 + c.w3
      ∧ 1 ≤ c.nZero ∧ c.nZero < c.nOne ∧ c.nOne < c.nTotal)
    ∧ (∀ c : Config, c.clampsW1 = false → c.clampsW2 = false → c.clampsW3 = false →
        c.nZero = c.cyc c.tZeroNs ∧ c.nOne = c.cyc c.tOneNs ∧ c.nTotal = c.cyc c.tTotalNs)
    ∧ ∀ c : Config, 0 < c.fClk → c.defaultTimes →
        ((c.clampsW1 = true ∨ c.clampsW2 = true ∨ c.clampsW3 = true)
            ↔ (c.fClk ≤ 1999999 ∨ (2777778 ≤ c.fClk ∧ c.fClk ≤ 2799999)))
          ∧ (1818182 ≤ c.fClk → c.clampsW1 = false ∧ c.clampsW2 = false)

/-- R116 to R119, R180 to R182 and what the spec derives from them (R120, marked [derived]): Fatal is tested first,
the two diagnostics exclude each other, and with the default parameters the clock decides: Fatal up to 1_818_181 Hz,
Advisory in the two closed bands, OK elsewhere. What the build reports: nothing for OK, `W_TIMING_MARGINAL` with code
2 for Advisory, `E_CLOCK_TOO_SLOW` with code 1 for Fatal, and with it `F_CLK`, `N_ZERO` and the realised `t_zero`. -/
def Obligations.DiagnosticBandsOfTheDefaults : Prop :=
  (∀ c : Config,
      (c.diag = .fatal ↔ c.tZeroFatalNs * c.fClk < c.nZero * 1000000000)
        ∧ (c.diag = .advisory ↔ ¬ c.tZeroFatalNs * c.fClk < c.nZero * 1000000000
            ∧ c.tZeroWarnNs * c.fClk ≤ c.nZero * 1000000000)
        ∧ (c.diag = .ok ↔ ¬ c.tZeroFatalNs * c.fClk < c.nZero * 1000000000
            ∧ ¬ c.tZeroWarnNs * c.fClk ≤ c.nZero * 1000000000))
    ∧ (∀ c : Config, c.defaultTimes → c.defaultThresholds →
        (c.diag = .fatal ↔ c.fClk ≤ 1818181)
          ∧ (c.diag = .advisory ↔
              (1818182 ≤ c.fClk ∧ c.fClk ≤ 2222222) ∨ (4285715 ≤ c.fClk ∧ c.fClk ≤ 4444444)))
    ∧ ∀ c : Config,
        (c.diag = .ok → c.report = none)
          ∧ (c.diag = .advisory → c.report = some { name := "W_TIMING_MARGINAL", code := 2, values := none })
          ∧ (c.diag = .fatal → ∃ tZero : Rat,
              c.report = some { name := "E_CLOCK_TOO_SLOW", code := 1, values := some (c.fClk, c.nZero, tZero) }
                ∧ (0 < c.fClk → tZero * c.fClk = c.nZero * 1000000000))

/-- R121: a hold length is the least number of cycles that lasts the family's idle time; with the default pulse times
and thresholds a build's hold lengths are at least 91. -/
def Obligations.HoldLengthsCoverTheIdleTime : Prop :=
  (∀ (c : Config) (n : Nat),
      (c.nResetRgb ≤ n ↔ c.tResetRgbUs * c.fClk ≤ n * 1000000)
        ∧ (c.nResetRgbw ≤ n ↔ c.tResetRgbwUs * c.fClk ≤ n * 1000000))
    ∧ ∀ (b : Build) (f : Family), b.cfg.defaultTimes → b.cfg.defaultThresholds → 91 ≤ b.cfg.nReset f

/-! ### A step -/

/-- R80, R82: in an idle cycle the step of a presented command word is the execution of the instruction it decodes to,
in the sampled state. A command of the host uses up its move. That the command of another agent runs whatever the host
presents, the host's move waiting, is the model's choice (log entry 8): the spec gives no arbitration. -/
def Obligations.StepRunsThePresentedCommand : Prop :=
  ∀ (s t : State) (w : CommandWord) (i : Instr),
    s.presents w t → decodeCommand w = .ok i → step s = exec i t

/-- R22, R88, R90: while busy with quiet inputs a step executes, in the sampled state, the symbol of the bit in
`SR[7]` during a frame and `RESET` during a hold (that a step executes a wire symbol is the model's choice, log entry
10). -/
def Obligations.StepRunsTheSymbolOnTheWire : Prop :=
  ∀ s : State, s.drive.rst = false → s.drive.cmd = none →
    (s.st = .send → s.sr.msb = false → step s = exec .sym0 s.sample)
      ∧ (s.st = .send → s.sr.msb = true → step s = exec .sym1 s.sample)
      ∧ (s.st = .hold → step s = exec .reset s.sample)

/-- R138: in an idle cycle with no command the engine writes nothing; what changes is what the host writes (the form
of the host's moves is log entry 7). -/
def Obligations.IdleCycleKeepsTheEngineRegisters : Prop :=
  ∀ s : State, s.st = .idle → s.drive.rst = false → s.drive.cmd = none →
    (s.host = [] → step s = .next s.sample)
      ∧ ∀ ws rest, s.host = .idle ws :: rest →
          ∃ t, step s = .next t ∧ t = { s.sample with host := rest }.hostWrites ws
            ∧ t.st = .idle ∧ t.sr = s.sr ∧ t.bitn = s.bitn ∧ t.cyc = s.cyc ∧ t.ptr = s.ptr ∧ t.cnt = s.cnt
            ∧ t.mask = s.mask ∧ t.holdn = s.holdn ∧ t.rcnt = s.rcnt ∧ t.ieSave = s.ieSave
            ∧ (ws = [] → t.port = s.port ∧ t.ddr = s.ddr ∧ t.ie = s.ie ∧ t.mem = s.mem)

/-- R16, 42_transmit.md section 2: every cycle appends its `(PORT, DDR)` to `WAVE`, and only that. -/
def Obligations.EveryStepAppendsOneSample : Prop :=
  ∀ s t : State, step s = .next t → t.wave = s.wave ++ [(s.port, s.ddr)]

/-- R100, R95: `resp` is valid after a step only if the step executed a `CORRECT`, and then it is `DIM[idx]`. -/
def Obligations.OnlyCorrectDrivesTheResponse : Prop :=
  ∀ (s t : State) (r : Byte), step s = .next t → t.resp = some r →
    ∃ w u idx, s.presents w u ∧ decodeCommand w = .ok (.correct idx) ∧ r = s.cfg.dimAt idx

/-- R200, R201: a cycle with `rst = 1` while idle ignores the command presented in it and writes nothing of the
machine but `ST`; the host's own writes of the cycle still happen (log entry 9). -/
def Obligations.ResetOfTheIdleEngineWritesNothing : Prop :=
  ∀ s : State, s.st = .idle → s.drive.rst = true →
    (s.host = [] → step s = .next s.sample)
      ∧ (∀ w rest, s.host = .command w :: rest → step s = .next { s.sample with host := rest })
      ∧ ∀ ws rest, s.host = .idle ws :: rest → step s = .next ({ s.sample with host := rest }.hostWrites ws)

/-- R85 (d), R184, R200, R202: while busy, a command from another agent is refused before its opcode is looked at, and
a reset is refused whatever is presented with it. That a reset and a command in the same busy cycle are answered by
`resetWhileBusy` is the model's choice (log entry 27): R200 and D31 against the numbering of R184's table. -/
def Obligations.BusyMachineRefusesCommandsAndReset : Prop :=
  ∀ s : State, s.busy = true →
    (s.drive.rst = true → step s = .refused .resetWhileBusy)
      ∧ ∀ w, s.drive.rst = false → s.drive.cmd = some w → step s = .refused .commandWhileBusy

/-- R15, R32, R33, R61: a step while busy leaves the host's moves, buffer memory, `DDR`, every pin outside `MASK`, and
what acceptance latched as they were, and samples no response. -/
def Obligations.BusyStepsTouchOnlyTheMaskedPins : Prop :=
  ∀ s t : State, s.busy = true → step s = .next t →
    t.host = s.host ∧ t.mem = s.mem ∧ t.ddr = s.ddr ∧ t.port &&& ~~~s.mask = s.port &&& ~~~s.mask
      ∧ t.mask = s.mask ∧ t.holdn = s.holdn ∧ t.ieSave = s.ieSave ∧ t.resp = none

/-- R34, R136, R137 (R143, marked [derived]): `IE` keeps its value within a frame and within a hold, and leaving
`SEND` restores `IE_SAVE`. -/
def Obligations.LeavingSendRestoresTheInterruptEnable : Prop :=
  ∀ s t : State, step s = .next t →
    (s.st = .send → t.st = .send → t.ie = s.ie)
      ∧ (s.st = .send → t.st ≠ .send → t.ie = s.ieSave)
      ∧ (s.st = .hold → t.ie = s.ie)

/-- R102, R211: no step of any kind changes the build. -/
def Obligations.NoStepChangesTheBuild : Prop :=
  ∀ s t : State, step s = .next t → t.build = s.build

/-- R133 to R135 (R35, marked [derived]): within a frame the linear index of the cycle goes up by one with every step.
-/
def Obligations.PositionAdvancesByOne : Prop :=
  ∀ (s t : State) (n : Nat), s.st = .send → s.cnt.toNat < n → step s = .next t → t.st = .send →
    t.position n = s.position n + 1

/-! ### Reset and the invariant -/

/-- R43, R201: after reset the engine is idle. That nothing is in the launch memory, that no response is valid and
that nothing has been observed then is the model's choice (log entries 6, 5, 21): R43 calls memory and `resp`
unspecified. -/
def Obligations.ResetStateIsIdleAndEmpty : Prop :=
  State.reset.st = .idle ∧ State.reset.busy = false ∧ State.reset.mem = [] ∧ State.reset.resp = none
    ∧ State.reset.wave = []

/-- The invariant holds right after reset (that `RCNT` is 0 there is the model's choice, log entry 3). -/
def Obligations.InvariantHoldsAtReset : Prop := State.reset.Inv

/-- The invariant of the machine (R24, R28, R29, R33, R68, R85, R132, R136, R137, the spec's [derived] R139, R142,
R143, and the canonical form of memory) is kept by every step from every state that meets it. -/
def Obligations.StepKeepsTheInvariant : Prop :=
  ∀ s t : State, s.Inv → step s = .next t → t.Inv

/-- R183: from a state that meets the invariant no step faults, and with quiet inputs every cycle of a running command
has a next state. -/
def Obligations.AdmittedCommandsNeverFault : Prop :=
  ∀ s : State, s.Inv →
    (∀ f : Fault, step s ≠ .fault f)
      ∧ (s.busy = true → s.drive.rst = false → s.drive.cmd = none → ∃ t, step s = .next t)

/-! ### Memory -/

/-- R61: the engine never writes buffer memory, whatever it executes; in a step only a byte the host writes in it can
change memory. -/
def Obligations.EngineNeverWritesMemory : Prop :=
  (∀ (i : Instr) (s t : State), exec i s = .next t → t.mem = s.mem)
    ∧ ∀ s t : State, step s = .next t →
        (∀ ws rest, s.host = .idle ws :: rest → ∀ a b, HostWrite.poke a b ∉ ws) → t.mem = s.mem

/-- R94, R138 (R74, marked [derived]; log entries 6, 7): a byte the host writes in an idle cycle is what is read at
its address from the next cycle on; every other address reads as before, and the canonical form is kept. -/
def Obligations.HostWriteIsSeenByLaterReads : Prop :=
  ∀ (s : State) (a : Addr) (b : Byte) (rest : List HostMove), s.st = .idle → s.drive.rst = false →
    s.drive.cmd = none → s.host = .idle [.poke a b] :: rest →
    ∃ t, step s = .next t ∧ t.mem.read a.toNat = some b
      ∧ (∀ x, x ≠ a.toNat → t.mem.read x = s.mem.read x) ∧ (s.mem.wf → t.mem.wf)

/-- R138, R32 to R34, R94 (the form of the host's moves is log entry 7): the host's writes of an idle cycle, whatever
their number and order. `IE`, `PORT`, `DDR` and each byte of memory hold what the last write to them wrote, and what
they held before where none did. -/
def Obligations.LastHostWriteToAPlaceWins : Prop :=
  ∀ (s : State) (ws : List HostWrite) (rest : List HostMove), s.st = .idle → s.drive.rst = false →
    s.drive.cmd = none → s.host = .idle ws :: rest →
    ∃ t, step s = .next t ∧ t.host = rest
      ∧ t.ie = (lastWrite HostWrite.ie ws).getD s.ie
      ∧ t.port = (lastWrite HostWrite.port ws).getD s.port
      ∧ t.ddr = (lastWrite HostWrite.ddr ws).getD s.ddr
      ∧ ∀ x, t.mem.read x = (lastWrite (HostWrite.byteAt x) ws).or (s.mem.read x)

/-- R94 (the cycle in which a directive is carried out is log entry 7): `poke` puts its bytes at consecutive addresses
and changes no other byte, `idle k` lets `k` cycles pass in which nothing but `WAVE` changes, `set IE = v` writes
`IE`. -/
def Obligations.DirectivesAreCarriedOut : Prop :=
  ∀ s : State, s.st = .idle → s.quietInputs →
    (∀ (a : Addr) (bs : List Byte), a.toNat + bs.length ≤ 65536 →
        ∃ t, step { s with host := hostMoves [.poke a bs] } = .next t ∧ t.host = []
          ∧ t.mem.bytes a.toNat bs.length = some bs
          ∧ ∀ x, x < a.toNat ∨ a.toNat + bs.length ≤ x → t.mem.read x = s.mem.read x)
      ∧ (∀ k, steps k { s with host := hostMoves [.idle k] } = .next { s with
            host := [], wave := s.wave ++ List.replicate k (s.port, s.ddr)
            resp := if k = 0 then s.resp else none })
      ∧ ∀ v, step { s with host := hostMoves [.setIe v] } = .next { s with
            host := [], wave := s.wave ++ [(s.port, s.ddr)], resp := none, ie := v }

/-- R60, R65: a cycle of a frame reads nothing but the next byte of the buffer, and that only in the last cycle of a
byte: with any other memory that agrees there the step is the same. -/
def Obligations.FrameCyclesReadOnlyTheNextByte : Prop :=
  ∀ (s t : State) (m : Memory), s.st = .send →
    (s.cyc + 1 = s.cfg.nTotal → s.bitn = 0#3 → s.cnt ≠ 0#18 →
      m.read s.ptr.toNat = s.mem.read s.ptr.toNat) →
    step s = .next t → step { s with mem := m } = .next { t with mem := m }

/-! ### The commands -/

/-- R100: `CORRECT` completes in every idle state, drives `DIM[idx]`, and writes nothing else. -/
def Obligations.CorrectAnswersTheTableEntry : Prop :=
  ∀ (idx : Byte) (s : State), s.st = .idle →
    exec (.correct idx) s = .next { s with resp := some (s.cfg.dimAt idx) }

/-- R101, S1: of every build, the answers of `CORRECT` are monotone in the index, 0 gives 0 and 255 gives 255. -/
def Obligations.CorrectFollowsTheTableLaws : Prop :=
  ∀ s : State, s.st = .idle →
    ∃ f : Byte → Byte,
      (∀ idx, exec (.correct idx) s = .next { s with resp := some (f idx) })
        ∧ (∀ b1 b2, b1 ≤ b2 → f b1 ≤ f b2) ∧ f 0#8 = 0#8 ∧ f 255#8 = 255#8

/-- R85, R131, R184: a frame command is refused, in this order, while busy, with count 0, with a mask that is not
one-hot, with a buffer that wraps or leaves the launch memory; `CORRECT` only while busy, whatever its index. -/
def Obligations.IllegalCommandsAreRefusedInOrder : Prop :=
  (∀ (idx : Byte) (s : State),
      (s.busy = true → exec (.correct idx) s = .refused .commandWhileBusy)
        ∧ (s.busy = false → ∃ t, exec (.correct idx) s = .next t))
    ∧ ∀ (i : Instr) (o : FrameOperands) (s : State), i.frameOperands s.cfg = some o →
      (s.busy = true → exec i s = .refused .commandWhileBusy)
        ∧ (s.st = .idle → o.count = 0#16 → exec i s = .refused .zeroCount)
        ∧ (s.st = .idle → o.count ≠ 0#16 → (∀ p : Fin 8, o.mask ≠ 1#8 <<< p.val) →
            exec i s = .refused .badMask)
        ∧ (s.st = .idle → o.count ≠ 0#16 → (∃ p : Fin 8, o.mask = 1#8 <<< p.val) →
            (65536 < o.addr.toNat + o.bytes ∨ ∃ k < o.bytes, s.mem.read (o.addr.toNat + k) = none) →
            exec i s = .refused .bufferNotAdmitted)

/-- R132 (with R86, R170, R171): an admitted `TRANSMIT`, `SHOW_RGB` or `SHOW_RGBW` completes, and its next state is
the acceptance step's. -/
def Obligations.AdmittedFrameCommandsAreAccepted : Prop :=
  ∀ (i : Instr) (o : FrameOperands) (s : State), i.frameOperands s.cfg = some o → s.st = .idle →
    o.count ≠ 0#16 → (∃ p : Fin 8, o.mask = 1#8 <<< p.val) → o.addr.toNat + o.bytes ≤ 65536 →
    (∀ k < o.bytes, (s.mem.read (o.addr.toNat + k)).isSome = true) →
    ∃ b, s.mem.read o.addr.toNat = some b ∧
      exec i s = .next { s with
        ieSave := s.ie
        ie := false
        ddr := s.ddr ||| o.mask
        port := s.port ||| o.mask
        mask := o.mask
        holdn := o.hold
        sr := s.cfg.dimAt b
        ptr := BitVec.ofNat 16 (o.addr.toNat + 1)
        cnt := BitVec.ofNat 18 (o.bytes - 1)
        bitn := 7#3
        cyc := 0
        st := .send }

/-- The frame of `TRANSMIT`, `SHOW_RGB`, `SHOW_RGBW` (R32, R33, R61, R132): a frame command that is accepted leaves
every pin outside its mask, every set bit of `DDR`, `RCNT`, every byte of memory, the response, the observation and
the inputs alone. -/
def Obligations.FrameCommandsLeaveTheRestAlone : Prop :=
  ∀ (i : Instr) (o : FrameOperands) (s t : State), i.frameOperands s.cfg = some o → exec i s = .next t →
    t.port &&& ~~~o.mask = s.port &&& ~~~o.mask ∧ t.ddr &&& ~~~o.mask = s.ddr &&& ~~~o.mask
      ∧ t.ddr &&& s.ddr = s.ddr ∧ t.rcnt = s.rcnt ∧ (∀ a, t.mem.read a = s.mem.read a) ∧ t.resp = s.resp
      ∧ t.wave = s.wave ∧ t.build = s.build ∧ t.host = s.host ∧ t.outside = s.outside

/-- R85: a command whose word alone breaks an operand rule never executes, in any state. -/
def Obligations.IllFormedCommandsNeverRun : Prop :=
  ∀ (i : Instr) (s t : State), i.wf = false → exec i s ≠ .next t

/-! ### The symbols of the wire -/

/-- R133: inside a bit `CYC` counts up, and the pin falls at the end of `W1` if the bit is 0 and at the end of `W2`.
-/
def Obligations.SymbolsCountTheirWindows : Prop :=
  ∀ s : State, s.st = .send → s.cyc + 1 < s.cfg.nTotal →
    (s.sr.msb = false → exec .sym0 s = .next { s with
        cyc := s.cyc + 1
        port := if s.cyc + 1 = s.cfg.nZero ∨ s.cyc + 1 = s.cfg.nOne then s.port &&& ~~~s.mask else s.port })
      ∧ (s.sr.msb = true → exec .sym1 s = .next { s with
        cyc := s.cyc + 1
        port := if s.cyc + 1 = s.cfg.nOne then s.port &&& ~~~s.mask else s.port })

/-- R134: at the end of a bit inside a byte the next lower bit moves to `SR[7]` and the pin rises. -/
def Obligations.SymbolsEndABitInsideAByte : Prop :=
  ∀ (s : State) (i : Instr), s.st = .send → s.cyc + 1 = s.cfg.nTotal → s.bitn ≠ 0#3 →
    (i = .sym0 ∧ s.sr.msb = false ∨ i = .sym1 ∧ s.sr.msb = true) →
    exec i s = .next { s with
      sr := BitVec.ofNat 8 (2 * s.sr.toNat), bitn := BitVec.ofNat 3 (s.bitn.toNat - 1), cyc := 0
      port := s.port ||| s.mask }

/-- R135: at the end of a byte with more to come the next byte is loaded through the table, the pointer is
post-incremented modulo `2^16`, and the pin rises. -/
def Obligations.SymbolsLoadTheNextByte : Prop :=
  ∀ (s : State) (i : Instr) (b : Byte),
    s.st = .send → s.cyc + 1 = s.cfg.nTotal → s.bitn = 0#3 → s.cnt ≠ 0#18 →
    s.mem.read s.ptr.toNat = some b →
    (i = .sym0 ∧ s.sr.msb = false ∨ i = .sym1 ∧ s.sr.msb = true) →
    exec i s = .next { s with
      sr := s.cfg.dimAt b
      ptr := BitVec.ofNat 16 (s.ptr.toNat + 1), cnt := BitVec.ofNat 18 (s.cnt.toNat - 1)
      bitn := 7#3, cyc := 0, port := s.port ||| s.mask }

/-- R136: at the end of the frame `IE` is restored and the engine goes idle, or to the hold with `RCNT = HOLDN`;
`PORT` is not written. -/
def Obligations.SymbolsEndTheFrame : Prop :=
  ∀ (s : State) (i : Instr), s.st = .send → s.cyc + 1 = s.cfg.nTotal → s.bitn = 0#3 → s.cnt = 0#18 →
    (i = .sym0 ∧ s.sr.msb = false ∨ i = .sym1 ∧ s.sr.msb = true) →
    (s.holdn = 0 → exec i s = .next { s with ie := s.ieSave, st := .idle })
      ∧ (s.holdn ≠ 0 → exec i s = .next { s with ie := s.ieSave, st := .hold, rcnt := s.holdn })

/-- R137, R138, R90: a `RESET` cycle of a hold counts `RCNT` down and ends the hold when it reaches 0; one that the
host lets pass while idle writes nothing (log entry 10). -/
def Obligations.ResetSymbolCountsTheHold : Prop :=
  ∀ s : State,
    (s.st = .hold → s.rcnt = 1 → exec .reset s = .next { s with rcnt := 0, st := .idle })
      ∧ (s.st = .hold → 2 ≤ s.rcnt → exec .reset s = .next { s with rcnt := s.rcnt - 1 })
      ∧ (s.st = .idle → exec .reset s = .next s)

/-- The frame of the symbols (R32, R33, R61, R136, R137): a cycle of a symbol leaves `MASK`, `HOLDN`, `IE_SAVE`,
`DDR`, every pin outside `MASK`, every byte of memory, the response, the observation and the inputs alone; a `RESET`
leaves all of `PORT`, `IE` and the shift and position registers alone too. -/
def Obligations.SymbolsLeaveTheRestAlone : Prop :=
  ∀ (i : Instr) (s t : State), i.onWire = true → exec i s = .next t →
    t.mask = s.mask ∧ t.holdn = s.holdn ∧ t.ieSave = s.ieSave ∧ t.ddr = s.ddr
      ∧ t.port &&& ~~~s.mask = s.port &&& ~~~s.mask ∧ (∀ a, t.mem.read a = s.mem.read a) ∧ t.resp = s.resp
      ∧ t.wave = s.wave ∧ t.build = s.build ∧ t.host = s.host ∧ t.outside = s.outside
      ∧ (i = .reset → t.port = s.port ∧ t.ie = s.ie ∧ t.sr = s.sr ∧ t.bitn = s.bitn ∧ t.cyc = s.cyc
          ∧ t.ptr = s.ptr ∧ t.cnt = s.cnt)

/-- Where a symbol stops (the model's choice, log entries 10 and 12): off the wire it is refused; in a state that R24,
R68 or R137 rules out it faults. -/
def Obligations.SymbolsStopOffTheWire : Prop :=
  ∀ s : State,
    (s.st ≠ .send ∨ s.sr.msb = true → exec .sym0 s = .refused .symbolNotOnWire)
      ∧ (s.st ≠ .send ∨ s.sr.msb = false → exec .sym1 s = .refused .symbolNotOnWire)
      ∧ (s.st = .send → exec .reset s = .refused .symbolNotOnWire)
      ∧ (s.st = .hold → s.rcnt = 0 → exec .reset s = .fault .rcntZero)
      ∧ (s.st = .send → s.cfg.nTotal ≤ s.cyc → exec s.symbol s = .fault .cycOutOfRange)
      ∧ (s.st = .send → s.cyc + 1 = s.cfg.nTotal → s.bitn = 0#3 → s.cnt ≠ 0#18 →
          s.mem.read s.ptr.toNat = none → exec s.symbol s = .fault .byteNotInLaunchMemory)

/-! ### Whole commands -/

/-- R89, R132 to R135 (R139, marked [derived]): from the first cycle of a bit on, the masked pins show the symbol's
shape `1^H 0^(N_TOTAL - H)`. -/
def Obligations.BitPeriodShowsTheSymbolShape : Prop :=
  ∀ (s : State) (k : Nat), s.Inv → s.quietInputs → s.st = .send → s.cyc = 0 → k < s.cfg.nTotal →
    ∃ u, steps k s = .next u ∧ u.st = .send ∧ u.cyc = k ∧ u.sr = s.sr ∧ u.mask = s.mask
      ∧ u.port &&& s.mask =
          if k < (if s.sr.msb then s.cfg.nOne else s.cfg.nZero) then s.mask else 0#8

/-- R132 to R137, R170 to R172 and what the spec derives from them (R140, marked [derived]): the whole-command law. An
admitted frame command (`TRANSMIT`, `SHOW_RGB`, `SHOW_RGBW`) the host presents runs, with quiet inputs, to the end
state the rules give, after `8 * n * N_TOTAL` cycles of the frame and the cycles of the hold; `WAVE` has grown by the
acceptance cycle's sample, the level string of the corrected bytes on the masked pin, and the hold's low samples. -/
def Obligations.FrameCommandsRunToTheirEndState : Prop :=
  ∀ (s : State) (w : CommandWord) (rest : List HostMove) (i : Instr) (o : FrameOperands) (bytes : List Byte),
    s.st = .idle → s.quietInputs → s.host = .command w :: rest → decodeCommand w = .ok i →
    i.frameOperands s.cfg = some o → o.count ≠ 0#16 → (∃ p : Fin 8, o.mask = 1#8 <<< p.val) →
    o.addr.toNat + o.bytes ≤ 65536 → s.mem.bytes o.addr.toNat o.bytes = some bytes →
    steps (8 * o.bytes * s.cfg.nTotal + o.hold + 1) s = .next { s with
      st := .idle
      ie := s.ie
      ieSave := s.ie
      ddr := s.ddr ||| o.mask
      port := s.port &&& ~~~o.mask
      mask := o.mask
      holdn := o.hold
      rcnt := if o.hold = 0 then s.rcnt else 0
      cnt := 0#18
      bitn := 0#3
      cyc := s.cfg.nTotal - 1
      ptr := BitVec.ofNat 16 (o.addr.toNat + o.bytes)
      sr := s.cfg.dimAt (bytes.getLastD 0#8) <<< 7
      resp := none
      host := rest
      wave := s.wave ++ (s.port, s.ddr) :: frameSamples s.port s.ddr o.mask
        (frameLevels s.cfg bytes ++ List.replicate o.hold false) }

/-- R132, R136, R137, R172 (R140 (a), R143, marked [derived]): in every cycle of the frame the engine is in `SEND`
with `IE = 0`; in every cycle of the hold it is in `HOLD` with `IE` as it was before the command. -/
def Obligations.InterruptsAreOffExactlyDuringTheFrame : Prop :=
  ∀ (s : State) (w : CommandWord) (rest : List HostMove) (i : Instr) (o : FrameOperands),
    s.st = .idle → s.quietInputs → s.host = .command w :: rest → decodeCommand w = .ok i →
    i.frameOperands s.cfg = some o → o.count ≠ 0#16 → (∃ p : Fin 8, o.mask = 1#8 <<< p.val) →
    o.addr.toNat + o.bytes ≤ 65536 → (∀ k < o.bytes, (s.mem.read (o.addr.toNat + k)).isSome = true) →
    ∀ k, 1 ≤ k → k ≤ 8 * o.bytes * s.cfg.nTotal + o.hold →
      ∃ u, steps k s = .next u
        ∧ (k ≤ 8 * o.bytes * s.cfg.nTotal → u.st = .send ∧ u.ie = false)
        ∧ (8 * o.bytes * s.cfg.nTotal < k → u.st = .hold ∧ u.ie = s.ie)

/-- R16, R87 to R90, R172, R204, R222: what a frame command puts on its pin. After the command, as in
`FrameCommandsRunToTheirEndState`, the levels of its pin from its first `SEND` cycle on read as the symbols of the
corrected bits of its bytes, followed by a `RESET` exactly if its hold lasts the family's idle time and is not 0; and
the wave ends with the pin low for at least the hold. That a hold shorter than the family's `N_RESET` contributes no
symbol is the model's choice (log entry 28). -/
def Obligations.FrameCommandsPutTheirSymbolsOnThePin : Prop :=
  ∀ (s : State) (w : CommandWord) (rest : List HostMove) (i : Instr) (o : FrameOperands) (bytes : List Byte)
    (p : Fin 8) (f : Family),
    s.st = .idle → s.quietInputs → s.host = .command w :: rest → decodeCommand w = .ok i →
    i.frameOperands s.cfg = some o → o.count ≠ 0#16 → o.mask = 1#8 <<< p.val →
    o.addr.toNat + o.bytes ≤ 65536 → s.mem.bytes o.addr.toNat o.bytes = some bytes →
    ∃ t, steps (8 * o.bytes * s.cfg.nTotal + o.hold + 1) s = .next t
      ∧ levelSymbols s.cfg f (pinLevels p (t.wave.drop (s.wave.length + 1)))
          = some ((frameBits s.cfg bytes).map bitSymbol
              ++ if 0 < o.hold ∧ s.cfg.nReset f ≤ o.hold then [.reset] else [])
      ∧ endsLow o.hold (pinLevels p t.wave) = true

/-- R87 to R89 (R141, R142, marked [derived]): a frame of `n` bytes has exactly `8 * n * N_TOTAL` cycles and, on a pin
that was low, exactly `8 * n` rising edges; it ends with the pin low. -/
def Obligations.FramesHaveEightPulsesPerByte : Prop :=
  ∀ (c : Config) (bytes : List Byte),
    (frameLevels c bytes).length = 8 * bytes.length * c.nTotal
      ∧ risingEdges false (frameLevels c bytes) = 8 * bytes.length
      ∧ (frameLevels c bytes).getLastD false = false

/-- R148 (b), (c), S6, S7: for every build, a frame of bytes 0 is all `SYM0` and a frame of bytes 255 is all `SYM1`.
-/
def Obligations.BlackFramesAreZerosAndWhiteFramesOnes : Prop :=
  ∀ (b : Build) (n : Nat),
    frameBits b.cfg (List.replicate n 0#8) = List.replicate (8 * n) false
      ∧ frameBits b.cfg (List.replicate n 255#8) = List.replicate (8 * n) true

/-- R132, R136 (R42, R144, marked [derived]): no state is carried between commands. Two idle machines that agree on
everything but the engine registers show the same observation, the same platform registers, memory and responses for
ever, and stop, if they stop, in the same way. -/
def Obligations.CommandsCarryNoHiddenState : Prop :=
  ∀ (k : Nat) (s t : State), s.st = .idle → t.st = .idle → s.agreesOutside t →
    (∃ u v, steps k s = .next u ∧ steps k t = .next v ∧ u.st = v.st ∧ u.agreesOutside v)
      ∨ (∃ f, steps k s = .fault f ∧ steps k t = .fault f)
      ∨ (∃ r, steps k s = .refused r ∧ steps k t = .refused r)

/-- R133 to R137, R145 (R146, marked [derived]): from every state of the invariant a running command, with quiet
inputs, is busy for exactly the cycles that `State.remaining` counts and is then idle. -/
def Obligations.EveryCommandEndsAfterItsCycles : Prop :=
  ∀ s : State, s.Inv → s.quietInputs → s.busy = true →
    (∃ t, steps s.remaining s = .next t ∧ t.st = .idle)
      ∧ ∀ k < s.remaining, ∃ u, steps k s = .next u ∧ u.busy = true

/-! ### Runs -/

/-- R222: the end state of a run is the state in the first cycle in which every action of the host has been carried
out and `ST = IDLE`; a run that is refused before that has none. -/
def Obligations.RunsEndInTheFirstCycleTheyAreOver : Prop :=
  ∀ (fuel : Nat) (s t : State), runEnd fuel s = some t ↔
    ∃ j ≤ fuel, steps j s = .next t ∧ t.runOver = true
      ∧ ∀ i < j, ∃ u, steps i s = .next u ∧ u.runOver = false

/-- R222: a run cannot hang. With quiet inputs every run from a state of the invariant is over after some number of
cycles or is refused; and two runs of the same actions on the same build, neither refused, are over after the same
number of cycles, whatever memory, `PORT`, `DDR`, `IE` and the engine registers held. -/
def Obligations.EveryRunIsOverOrRefused : Prop :=
  (∀ s : State, s.Inv → s.quietInputs →
      (∃ k t, runEnd k s = some t) ∨ ∃ k r, steps k s = .refused r)
    ∧ ∀ (k n : Nat) (s t u v : State), s.st = .idle → t.st = .idle → s.quietInputs → t.quietInputs →
        s.host = t.host → s.build = t.build → runEnd k s = some u → runEnd n t = some v →
        (runEnd k t).isSome = true
end

