-- ==== Sys2Proof/Laws/Memory.lean ====
section
/-!
SUPPORT. Buffer memory: a read after a write, the canonical form, admission (20_memory.md R67, R68, R74).
-/
namespace Sys2Proof.Machine

/-- A read of the address just written gives the byte written. -/
@[simp] theorem Memory.read_write_same (m : Memory) (a : Nat) (b : Byte) : (m.write a b).read a = some b := by
  induction m with
  | nil => simp [Memory.write, Memory.read]
  | cons c m ih =>
    obtain ⟨x, v⟩ := c
    simp only [Memory.write]
    split
    · simp [Memory.read]
    · split
      · simp [Memory.read]
      · next h => simp [Memory.read, Ne.symm h, ih]

/-- A read of any other address is as before. -/
theorem Memory.read_write_other (m : Memory) {a x : Nat} (b : Byte) (h : x ≠ a) :
    (m.write a b).read x = m.read x := by
  induction m with
  | nil => simp [Memory.write, Memory.read, Ne.symm h]
  | cons c m ih =>
    obtain ⟨y, v⟩ := c
    simp only [Memory.write]
    split
    · simp [Memory.read, Ne.symm h]
    · split
      · next e => subst e; simp [Memory.read, Ne.symm h]
      · simp [Memory.read, ih]

/-- The addresses of a memory after a write: the old ones and the address written. -/
theorem Memory.mem_write {m : Memory} {a : Nat} {b : Byte} {c : Host.Cell} (h : c ∈ m.write a b) :
    c = (a, b) ∨ c ∈ m := by
  induction m with
  | nil => simpa [Memory.write] using h
  | cons d m ih =>
    obtain ⟨y, v⟩ := d
    simp only [Memory.write] at h
    split at h
    · simpa using h
    · split at h
      · rcases List.mem_cons.1 h with h | h
        · exact .inl h
        · exact .inr (List.mem_cons_of_mem _ h)
      · rcases List.mem_cons.1 h with h | h
        · exact .inr (h ▸ List.mem_cons_self)
        · exact (ih h).imp_right (List.mem_cons_of_mem _)

/-- A write keeps the canonical form. -/
theorem Memory.wf_write {m : Memory} (hm : m.wf) {a : Nat} (ha : a < 65536) (b : Byte) : (m.write a b).wf := by
  refine ⟨?_, fun c hc => ?_⟩
  · obtain ⟨hp, -⟩ := hm
    induction m with
    | nil => simp [Memory.write]
    | cons c m ih =>
      obtain ⟨x, v⟩ := c
      obtain ⟨hx, hr⟩ := List.pairwise_cons.1 hp
      simp only [Memory.write]
      split
      · next h =>
        refine List.pairwise_cons.2 ⟨fun d hd => ?_, hp⟩
        rcases List.mem_cons.1 hd with rfl | hd
        · exact h
        · exact h.trans (hx d hd)
      · split
        · next _ h => subst h; exact List.pairwise_cons.2 ⟨hx, hr⟩
        · next h h' =>
          refine List.pairwise_cons.2 ⟨fun d hd => ?_, ih hr⟩
          rcases Memory.mem_write hd with rfl | hd
          · exact lt_of_le_of_ne (not_lt.1 h) (Ne.symm h')
          · exact hx d hd
  · rcases Memory.mem_write hc with rfl | hc
    · exact ha
    · exact hm.2 c hc

/-- The host's writes keep the canonical form. -/
theorem State.hostWrites_wf (ws : List HostWrite) {s : State} (h : s.mem.wf) : (s.hostWrites ws).mem.wf := by
  induction ws generalizing s with
  | nil => exact h
  | cons w ws ih =>
    refine ih (s := s.hostWrite w) ?_
    cases w with
    | poke a b => exact Memory.wf_write h a.isLt b
    | setIe v => exact h
    | setPort v => exact h
    | setDdr v => exact h

/-- Admission, read out: the buffer does not wrap, and each of its addresses has a byte (R68). -/
theorem admitted_iff (m : Memory) (a : Addr) (n : ByteCount) :
    admitted m a n = true ↔
      a.toNat + n.toNat ≤ 65536 ∧ ∀ i < n.toNat, ∃ b, m.read (a.toNat + i) = some b := by
  simp [admitted, fits, Option.isSome_iff_exists]

/-- What is admitted of a buffer of more than one byte once its first byte is read. -/
theorem admitted_rest {m : Memory} {a : Addr} {n : ByteCount} (h : admitted m a n = true) (hn : n ≠ 0#18)
    (hn' : n - 1#18 ≠ 0#18) : admitted m (a + 1#16) (n - 1#18) = true := by
  rw [admitted_iff] at h ⊢
  obtain ⟨hf, hr⟩ := h
  have e : (n - 1#18).toNat = n.toNat - 1 := by bv_omega
  have p : (n - 1#18).toNat ≠ 0 := fun h0 => hn' (BitVec.eq_of_toNat_eq h0)
  have ea : (a + 1#16).toNat = a.toNat + 1 := by bv_omega
  refine ⟨by omega, fun i hi => ?_⟩
  have := hr (i + 1) (by omega)
  rwa [ea, show a.toNat + 1 + i = a.toNat + (i + 1) by omega]

/-- An admitted buffer that is not empty has a first byte. -/
theorem admitted_first {m : Memory} {a : Addr} {n : ByteCount} (h : admitted m a n = true) (hn : n ≠ 0#18) :
    ∃ b, m.read a.toNat = some b := by
  have := ((admitted_iff m a n).1 h).2 0 (Nat.pos_of_ne_zero fun h0 => hn (BitVec.eq_of_toNat_eq h0))
  simpa using this

end Sys2Proof.Machine
end

