-- ==== Sys2Proof/Laws/State.lean ====
section
/-!
SUPPORT. The state record's small lemmas: one per field per update, true by rfl, so that no later proof unfolds an
update; and the lemmas of the host's writes.
-/
namespace Sys2Proof.Machine

variable (s : State)


@[simp] theorem State.disableInterrupts_st : s.disableInterrupts.st = s.st := rfl
@[simp] theorem State.disableInterrupts_sr : s.disableInterrupts.sr = s.sr := rfl
@[simp] theorem State.disableInterrupts_bitn : s.disableInterrupts.bitn = s.bitn := rfl
@[simp] theorem State.disableInterrupts_cyc : s.disableInterrupts.cyc = s.cyc := rfl
@[simp] theorem State.disableInterrupts_ptr : s.disableInterrupts.ptr = s.ptr := rfl
@[simp] theorem State.disableInterrupts_cnt : s.disableInterrupts.cnt = s.cnt := rfl
@[simp] theorem State.disableInterrupts_mask : s.disableInterrupts.mask = s.mask := rfl
@[simp] theorem State.disableInterrupts_holdn : s.disableInterrupts.holdn = s.holdn := rfl
@[simp] theorem State.disableInterrupts_rcnt : s.disableInterrupts.rcnt = s.rcnt := rfl
@[simp] theorem State.disableInterrupts_ieSave : s.disableInterrupts.ieSave = s.ie := rfl
@[simp] theorem State.disableInterrupts_port : s.disableInterrupts.port = s.port := rfl
@[simp] theorem State.disableInterrupts_ddr : s.disableInterrupts.ddr = s.ddr := rfl
@[simp] theorem State.disableInterrupts_ie : s.disableInterrupts.ie = false := rfl
@[simp] theorem State.disableInterrupts_mem : s.disableInterrupts.mem = s.mem := rfl
@[simp] theorem State.disableInterrupts_resp : s.disableInterrupts.resp = s.resp := rfl
@[simp] theorem State.disableInterrupts_wave : s.disableInterrupts.wave = s.wave := rfl
@[simp] theorem State.disableInterrupts_build : s.disableInterrupts.build = s.build := rfl
@[simp] theorem State.disableInterrupts_host : s.disableInterrupts.host = s.host := rfl
@[simp] theorem State.disableInterrupts_outside : s.disableInterrupts.outside = s.outside := rfl

@[simp] theorem State.restoreInterrupts_st : s.restoreInterrupts.st = s.st := rfl
@[simp] theorem State.restoreInterrupts_sr : s.restoreInterrupts.sr = s.sr := rfl
@[simp] theorem State.restoreInterrupts_bitn : s.restoreInterrupts.bitn = s.bitn := rfl
@[simp] theorem State.restoreInterrupts_cyc : s.restoreInterrupts.cyc = s.cyc := rfl
@[simp] theorem State.restoreInterrupts_ptr : s.restoreInterrupts.ptr = s.ptr := rfl
@[simp] theorem State.restoreInterrupts_cnt : s.restoreInterrupts.cnt = s.cnt := rfl
@[simp] theorem State.restoreInterrupts_mask : s.restoreInterrupts.mask = s.mask := rfl
@[simp] theorem State.restoreInterrupts_holdn : s.restoreInterrupts.holdn = s.holdn := rfl
@[simp] theorem State.restoreInterrupts_rcnt : s.restoreInterrupts.rcnt = s.rcnt := rfl
@[simp] theorem State.restoreInterrupts_ieSave : s.restoreInterrupts.ieSave = s.ieSave := rfl
@[simp] theorem State.restoreInterrupts_port : s.restoreInterrupts.port = s.port := rfl
@[simp] theorem State.restoreInterrupts_ddr : s.restoreInterrupts.ddr = s.ddr := rfl
@[simp] theorem State.restoreInterrupts_ie : s.restoreInterrupts.ie = s.ieSave := rfl
@[simp] theorem State.restoreInterrupts_mem : s.restoreInterrupts.mem = s.mem := rfl
@[simp] theorem State.restoreInterrupts_resp : s.restoreInterrupts.resp = s.resp := rfl
@[simp] theorem State.restoreInterrupts_wave : s.restoreInterrupts.wave = s.wave := rfl
@[simp] theorem State.restoreInterrupts_build : s.restoreInterrupts.build = s.build := rfl
@[simp] theorem State.restoreInterrupts_host : s.restoreInterrupts.host = s.host := rfl
@[simp] theorem State.restoreInterrupts_outside : s.restoreInterrupts.outside = s.outside := rfl

@[simp] theorem State.driveHigh_st (m : Port) : (s.driveHigh m).st = s.st := rfl
@[simp] theorem State.driveHigh_sr (m : Port) : (s.driveHigh m).sr = s.sr := rfl
@[simp] theorem State.driveHigh_bitn (m : Port) : (s.driveHigh m).bitn = s.bitn := rfl
@[simp] theorem State.driveHigh_cyc (m : Port) : (s.driveHigh m).cyc = s.cyc := rfl
@[simp] theorem State.driveHigh_ptr (m : Port) : (s.driveHigh m).ptr = s.ptr := rfl
@[simp] theorem State.driveHigh_cnt (m : Port) : (s.driveHigh m).cnt = s.cnt := rfl
@[simp] theorem State.driveHigh_mask (m : Port) : (s.driveHigh m).mask = s.mask := rfl
@[simp] theorem State.driveHigh_holdn (m : Port) : (s.driveHigh m).holdn = s.holdn := rfl
@[simp] theorem State.driveHigh_rcnt (m : Port) : (s.driveHigh m).rcnt = s.rcnt := rfl
@[simp] theorem State.driveHigh_ieSave (m : Port) : (s.driveHigh m).ieSave = s.ieSave := rfl
@[simp] theorem State.driveHigh_port (m : Port) : (s.driveHigh m).port = s.port ||| m := rfl
@[simp] theorem State.driveHigh_ddr (m : Port) : (s.driveHigh m).ddr = s.ddr := rfl
@[simp] theorem State.driveHigh_ie (m : Port) : (s.driveHigh m).ie = s.ie := rfl
@[simp] theorem State.driveHigh_mem (m : Port) : (s.driveHigh m).mem = s.mem := rfl
@[simp] theorem State.driveHigh_resp (m : Port) : (s.driveHigh m).resp = s.resp := rfl
@[simp] theorem State.driveHigh_wave (m : Port) : (s.driveHigh m).wave = s.wave := rfl
@[simp] theorem State.driveHigh_build (m : Port) : (s.driveHigh m).build = s.build := rfl
@[simp] theorem State.driveHigh_host (m : Port) : (s.driveHigh m).host = s.host := rfl
@[simp] theorem State.driveHigh_outside (m : Port) : (s.driveHigh m).outside = s.outside := rfl

@[simp] theorem State.setOutput_st (m : Port) : (s.setOutput m).st = s.st := rfl
@[simp] theorem State.setOutput_sr (m : Port) : (s.setOutput m).sr = s.sr := rfl
@[simp] theorem State.setOutput_bitn (m : Port) : (s.setOutput m).bitn = s.bitn := rfl
@[simp] theorem State.setOutput_cyc (m : Port) : (s.setOutput m).cyc = s.cyc := rfl
@[simp] theorem State.setOutput_ptr (m : Port) : (s.setOutput m).ptr = s.ptr := rfl
@[simp] theorem State.setOutput_cnt (m : Port) : (s.setOutput m).cnt = s.cnt := rfl
@[simp] theorem State.setOutput_mask (m : Port) : (s.setOutput m).mask = s.mask := rfl
@[simp] theorem State.setOutput_holdn (m : Port) : (s.setOutput m).holdn = s.holdn := rfl
@[simp] theorem State.setOutput_rcnt (m : Port) : (s.setOutput m).rcnt = s.rcnt := rfl
@[simp] theorem State.setOutput_ieSave (m : Port) : (s.setOutput m).ieSave = s.ieSave := rfl
@[simp] theorem State.setOutput_port (m : Port) : (s.setOutput m).port = s.port := rfl
@[simp] theorem State.setOutput_ddr (m : Port) : (s.setOutput m).ddr = s.ddr ||| m := rfl
@[simp] theorem State.setOutput_ie (m : Port) : (s.setOutput m).ie = s.ie := rfl
@[simp] theorem State.setOutput_mem (m : Port) : (s.setOutput m).mem = s.mem := rfl
@[simp] theorem State.setOutput_resp (m : Port) : (s.setOutput m).resp = s.resp := rfl
@[simp] theorem State.setOutput_wave (m : Port) : (s.setOutput m).wave = s.wave := rfl
@[simp] theorem State.setOutput_build (m : Port) : (s.setOutput m).build = s.build := rfl
@[simp] theorem State.setOutput_host (m : Port) : (s.setOutput m).host = s.host := rfl
@[simp] theorem State.setOutput_outside (m : Port) : (s.setOutput m).outside = s.outside := rfl

@[simp] theorem State.latchFrame_st (a : Addr) (n : ByteCount) (m : Port) (h : Nat) (b : Byte) : (s.latchFrame a n m h b).st = .send := rfl
@[simp] theorem State.latchFrame_sr (a : Addr) (n : ByteCount) (m : Port) (h : Nat) (b : Byte) : (s.latchFrame a n m h b).sr = s.cfg.dimAt b := rfl
@[simp] theorem State.latchFrame_bitn (a : Addr) (n : ByteCount) (m : Port) (h : Nat) (b : Byte) : (s.latchFrame a n m h b).bitn = 7#3 := rfl
@[simp] theorem State.latchFrame_cyc (a : Addr) (n : ByteCount) (m : Port) (h : Nat) (b : Byte) : (s.latchFrame a n m h b).cyc = 0 := rfl
@[simp] theorem State.latchFrame_ptr (a : Addr) (n : ByteCount) (m : Port) (h : Nat) (b : Byte) : (s.latchFrame a n m h b).ptr = a + 1#16 := rfl
@[simp] theorem State.latchFrame_cnt (a : Addr) (n : ByteCount) (m : Port) (h : Nat) (b : Byte) : (s.latchFrame a n m h b).cnt = n - 1#18 := rfl
@[simp] theorem State.latchFrame_mask (a : Addr) (n : ByteCount) (m : Port) (h : Nat) (b : Byte) : (s.latchFrame a n m h b).mask = m := rfl
@[simp] theorem State.latchFrame_holdn (a : Addr) (n : ByteCount) (m : Port) (h : Nat) (b : Byte) : (s.latchFrame a n m h b).holdn = h := rfl
@[simp] theorem State.latchFrame_rcnt (a : Addr) (n : ByteCount) (m : Port) (h : Nat) (b : Byte) : (s.latchFrame a n m h b).rcnt = s.rcnt := rfl
@[simp] theorem State.latchFrame_ieSave (a : Addr) (n : ByteCount) (m : Port) (h : Nat) (b : Byte) : (s.latchFrame a n m h b).ieSave = s.ie := rfl
@[simp] theorem State.latchFrame_port (a : Addr) (n : ByteCount) (m : Port) (h : Nat) (b : Byte) : (s.latchFrame a n m h b).port = s.port ||| m := rfl
@[simp] theorem State.latchFrame_ddr (a : Addr) (n : ByteCount) (m : Port) (h : Nat) (b : Byte) : (s.latchFrame a n m h b).ddr = s.ddr ||| m := rfl
@[simp] theorem State.latchFrame_ie (a : Addr) (n : ByteCount) (m : Port) (h : Nat) (b : Byte) : (s.latchFrame a n m h b).ie = false := rfl
@[simp] theorem State.latchFrame_mem (a : Addr) (n : ByteCount) (m : Port) (h : Nat) (b : Byte) : (s.latchFrame a n m h b).mem = s.mem := rfl
@[simp] theorem State.latchFrame_resp (a : Addr) (n : ByteCount) (m : Port) (h : Nat) (b : Byte) : (s.latchFrame a n m h b).resp = s.resp := rfl
@[simp] theorem State.latchFrame_wave (a : Addr) (n : ByteCount) (m : Port) (h : Nat) (b : Byte) : (s.latchFrame a n m h b).wave = s.wave := rfl
@[simp] theorem State.latchFrame_build (a : Addr) (n : ByteCount) (m : Port) (h : Nat) (b : Byte) : (s.latchFrame a n m h b).build = s.build := rfl
@[simp] theorem State.latchFrame_host (a : Addr) (n : ByteCount) (m : Port) (h : Nat) (b : Byte) : (s.latchFrame a n m h b).host = s.host := rfl
@[simp] theorem State.latchFrame_outside (a : Addr) (n : ByteCount) (m : Port) (h : Nat) (b : Byte) : (s.latchFrame a n m h b).outside = s.outside := rfl

@[simp] theorem State.insideBit_st (b : Bool) : (s.insideBit b).st = s.st := rfl
@[simp] theorem State.insideBit_sr (b : Bool) : (s.insideBit b).sr = s.sr := rfl
@[simp] theorem State.insideBit_bitn (b : Bool) : (s.insideBit b).bitn = s.bitn := rfl
@[simp] theorem State.insideBit_cyc (b : Bool) : (s.insideBit b).cyc = s.cyc + 1 := rfl
@[simp] theorem State.insideBit_ptr (b : Bool) : (s.insideBit b).ptr = s.ptr := rfl
@[simp] theorem State.insideBit_cnt (b : Bool) : (s.insideBit b).cnt = s.cnt := rfl
@[simp] theorem State.insideBit_mask (b : Bool) : (s.insideBit b).mask = s.mask := rfl
@[simp] theorem State.insideBit_holdn (b : Bool) : (s.insideBit b).holdn = s.holdn := rfl
@[simp] theorem State.insideBit_rcnt (b : Bool) : (s.insideBit b).rcnt = s.rcnt := rfl
@[simp] theorem State.insideBit_ieSave (b : Bool) : (s.insideBit b).ieSave = s.ieSave := rfl
@[simp] theorem State.insideBit_port (b : Bool) : (s.insideBit b).port = if s.falls b then s.port &&& ~~~s.mask else s.port := rfl
@[simp] theorem State.insideBit_ddr (b : Bool) : (s.insideBit b).ddr = s.ddr := rfl
@[simp] theorem State.insideBit_ie (b : Bool) : (s.insideBit b).ie = s.ie := rfl
@[simp] theorem State.insideBit_mem (b : Bool) : (s.insideBit b).mem = s.mem := rfl
@[simp] theorem State.insideBit_resp (b : Bool) : (s.insideBit b).resp = s.resp := rfl
@[simp] theorem State.insideBit_wave (b : Bool) : (s.insideBit b).wave = s.wave := rfl
@[simp] theorem State.insideBit_build (b : Bool) : (s.insideBit b).build = s.build := rfl
@[simp] theorem State.insideBit_host (b : Bool) : (s.insideBit b).host = s.host := rfl
@[simp] theorem State.insideBit_outside (b : Bool) : (s.insideBit b).outside = s.outside := rfl

@[simp] theorem State.nextBit_st : s.nextBit.st = s.st := rfl
@[simp] theorem State.nextBit_sr : s.nextBit.sr = s.sr <<< 1 := rfl
@[simp] theorem State.nextBit_bitn : s.nextBit.bitn = s.bitn - 1#3 := rfl
@[simp] theorem State.nextBit_cyc : s.nextBit.cyc = 0 := rfl
@[simp] theorem State.nextBit_ptr : s.nextBit.ptr = s.ptr := rfl
@[simp] theorem State.nextBit_cnt : s.nextBit.cnt = s.cnt := rfl
@[simp] theorem State.nextBit_mask : s.nextBit.mask = s.mask := rfl
@[simp] theorem State.nextBit_holdn : s.nextBit.holdn = s.holdn := rfl
@[simp] theorem State.nextBit_rcnt : s.nextBit.rcnt = s.rcnt := rfl
@[simp] theorem State.nextBit_ieSave : s.nextBit.ieSave = s.ieSave := rfl
@[simp] theorem State.nextBit_port : s.nextBit.port = s.port ||| s.mask := rfl
@[simp] theorem State.nextBit_ddr : s.nextBit.ddr = s.ddr := rfl
@[simp] theorem State.nextBit_ie : s.nextBit.ie = s.ie := rfl
@[simp] theorem State.nextBit_mem : s.nextBit.mem = s.mem := rfl
@[simp] theorem State.nextBit_resp : s.nextBit.resp = s.resp := rfl
@[simp] theorem State.nextBit_wave : s.nextBit.wave = s.wave := rfl
@[simp] theorem State.nextBit_build : s.nextBit.build = s.build := rfl
@[simp] theorem State.nextBit_host : s.nextBit.host = s.host := rfl
@[simp] theorem State.nextBit_outside : s.nextBit.outside = s.outside := rfl

@[simp] theorem State.nextByte_st (b : Byte) : (s.nextByte b).st = s.st := rfl
@[simp] theorem State.nextByte_sr (b : Byte) : (s.nextByte b).sr = s.cfg.dimAt b := rfl
@[simp] theorem State.nextByte_bitn (b : Byte) : (s.nextByte b).bitn = 7#3 := rfl
@[simp] theorem State.nextByte_cyc (b : Byte) : (s.nextByte b).cyc = 0 := rfl
@[simp] theorem State.nextByte_ptr (b : Byte) : (s.nextByte b).ptr = s.ptr + 1#16 := rfl
@[simp] theorem State.nextByte_cnt (b : Byte) : (s.nextByte b).cnt = s.cnt - 1#18 := rfl
@[simp] theorem State.nextByte_mask (b : Byte) : (s.nextByte b).mask = s.mask := rfl
@[simp] theorem State.nextByte_holdn (b : Byte) : (s.nextByte b).holdn = s.holdn := rfl
@[simp] theorem State.nextByte_rcnt (b : Byte) : (s.nextByte b).rcnt = s.rcnt := rfl
@[simp] theorem State.nextByte_ieSave (b : Byte) : (s.nextByte b).ieSave = s.ieSave := rfl
@[simp] theorem State.nextByte_port (b : Byte) : (s.nextByte b).port = s.port ||| s.mask := rfl
@[simp] theorem State.nextByte_ddr (b : Byte) : (s.nextByte b).ddr = s.ddr := rfl
@[simp] theorem State.nextByte_ie (b : Byte) : (s.nextByte b).ie = s.ie := rfl
@[simp] theorem State.nextByte_mem (b : Byte) : (s.nextByte b).mem = s.mem := rfl
@[simp] theorem State.nextByte_resp (b : Byte) : (s.nextByte b).resp = s.resp := rfl
@[simp] theorem State.nextByte_wave (b : Byte) : (s.nextByte b).wave = s.wave := rfl
@[simp] theorem State.nextByte_build (b : Byte) : (s.nextByte b).build = s.build := rfl
@[simp] theorem State.nextByte_host (b : Byte) : (s.nextByte b).host = s.host := rfl
@[simp] theorem State.nextByte_outside (b : Byte) : (s.nextByte b).outside = s.outside := rfl

@[simp] theorem State.endFrame_st : s.endFrame.st = if s.holdn = 0 then .idle else .hold := rfl
@[simp] theorem State.endFrame_sr : s.endFrame.sr = s.sr := rfl
@[simp] theorem State.endFrame_bitn : s.endFrame.bitn = s.bitn := rfl
@[simp] theorem State.endFrame_cyc : s.endFrame.cyc = s.cyc := rfl
@[simp] theorem State.endFrame_ptr : s.endFrame.ptr = s.ptr := rfl
@[simp] theorem State.endFrame_cnt : s.endFrame.cnt = s.cnt := rfl
@[simp] theorem State.endFrame_mask : s.endFrame.mask = s.mask := rfl
@[simp] theorem State.endFrame_holdn : s.endFrame.holdn = s.holdn := rfl
@[simp] theorem State.endFrame_rcnt : s.endFrame.rcnt = if s.holdn = 0 then s.rcnt else s.holdn := rfl
@[simp] theorem State.endFrame_ieSave : s.endFrame.ieSave = s.ieSave := rfl
@[simp] theorem State.endFrame_port : s.endFrame.port = s.port := rfl
@[simp] theorem State.endFrame_ddr : s.endFrame.ddr = s.ddr := rfl
@[simp] theorem State.endFrame_ie : s.endFrame.ie = s.ieSave := rfl
@[simp] theorem State.endFrame_mem : s.endFrame.mem = s.mem := rfl
@[simp] theorem State.endFrame_resp : s.endFrame.resp = s.resp := rfl
@[simp] theorem State.endFrame_wave : s.endFrame.wave = s.wave := rfl
@[simp] theorem State.endFrame_build : s.endFrame.build = s.build := rfl
@[simp] theorem State.endFrame_host : s.endFrame.host = s.host := rfl
@[simp] theorem State.endFrame_outside : s.endFrame.outside = s.outside := rfl

@[simp] theorem State.holdStep_st : s.holdStep.st = if s.rcnt - 1 = 0 then .idle else .hold := rfl
@[simp] theorem State.holdStep_sr : s.holdStep.sr = s.sr := rfl
@[simp] theorem State.holdStep_bitn : s.holdStep.bitn = s.bitn := rfl
@[simp] theorem State.holdStep_cyc : s.holdStep.cyc = s.cyc := rfl
@[simp] theorem State.holdStep_ptr : s.holdStep.ptr = s.ptr := rfl
@[simp] theorem State.holdStep_cnt : s.holdStep.cnt = s.cnt := rfl
@[simp] theorem State.holdStep_mask : s.holdStep.mask = s.mask := rfl
@[simp] theorem State.holdStep_holdn : s.holdStep.holdn = s.holdn := rfl
@[simp] theorem State.holdStep_rcnt : s.holdStep.rcnt = s.rcnt - 1 := rfl
@[simp] theorem State.holdStep_ieSave : s.holdStep.ieSave = s.ieSave := rfl
@[simp] theorem State.holdStep_port : s.holdStep.port = s.port := rfl
@[simp] theorem State.holdStep_ddr : s.holdStep.ddr = s.ddr := rfl
@[simp] theorem State.holdStep_ie : s.holdStep.ie = s.ie := rfl
@[simp] theorem State.holdStep_mem : s.holdStep.mem = s.mem := rfl
@[simp] theorem State.holdStep_resp : s.holdStep.resp = s.resp := rfl
@[simp] theorem State.holdStep_wave : s.holdStep.wave = s.wave := rfl
@[simp] theorem State.holdStep_build : s.holdStep.build = s.build := rfl
@[simp] theorem State.holdStep_host : s.holdStep.host = s.host := rfl
@[simp] theorem State.holdStep_outside : s.holdStep.outside = s.outside := rfl

@[simp] theorem State.sample_st : s.sample.st = s.st := rfl
@[simp] theorem State.sample_sr : s.sample.sr = s.sr := rfl
@[simp] theorem State.sample_bitn : s.sample.bitn = s.bitn := rfl
@[simp] theorem State.sample_cyc : s.sample.cyc = s.cyc := rfl
@[simp] theorem State.sample_ptr : s.sample.ptr = s.ptr := rfl
@[simp] theorem State.sample_cnt : s.sample.cnt = s.cnt := rfl
@[simp] theorem State.sample_mask : s.sample.mask = s.mask := rfl
@[simp] theorem State.sample_holdn : s.sample.holdn = s.holdn := rfl
@[simp] theorem State.sample_rcnt : s.sample.rcnt = s.rcnt := rfl
@[simp] theorem State.sample_ieSave : s.sample.ieSave = s.ieSave := rfl
@[simp] theorem State.sample_port : s.sample.port = s.port := rfl
@[simp] theorem State.sample_ddr : s.sample.ddr = s.ddr := rfl
@[simp] theorem State.sample_ie : s.sample.ie = s.ie := rfl
@[simp] theorem State.sample_mem : s.sample.mem = s.mem := rfl
@[simp] theorem State.sample_resp : s.sample.resp = none := rfl
@[simp] theorem State.sample_wave : s.sample.wave = s.wave ++ [(s.port, s.ddr)] := rfl
@[simp] theorem State.sample_build : s.sample.build = s.build := rfl
@[simp] theorem State.sample_host : s.sample.host = s.host := rfl
@[simp] theorem State.sample_outside : s.sample.outside = s.outside.tail := rfl

/-- What one host write leaves alone: the engine registers, the bookkeeping, the inputs (42_transmit.md R138). -/
theorem State.hostWrite_keeps (w : HostWrite) :
    s.hostWrite w = { s with
      port := (s.hostWrite w).port, ddr := (s.hostWrite w).ddr, ie := (s.hostWrite w).ie, mem := (s.hostWrite w).mem } := by
  cases w <;> rfl

/-- The same for the writes of one cycle. -/
theorem State.hostWrites_keeps (ws : List HostWrite) (s : State) :
    s.hostWrites ws = { s with
      port := (s.hostWrites ws).port, ddr := (s.hostWrites ws).ddr, ie := (s.hostWrites ws).ie
      mem := (s.hostWrites ws).mem } := by
  induction ws generalizing s with
  | nil => rfl
  | cons w ws ih =>
    have h := ih (s.hostWrite w)
    have hw := s.hostWrite_keeps w
    simp only [State.hostWrites, List.foldl_cons] at h ⊢
    rw [h]
    rw [hw]

@[simp] theorem State.hostWrites_st (ws : List HostWrite) : (s.hostWrites ws).st = s.st := by
  rw [State.hostWrites_keeps]
@[simp] theorem State.hostWrites_sr (ws : List HostWrite) : (s.hostWrites ws).sr = s.sr := by
  rw [State.hostWrites_keeps]
@[simp] theorem State.hostWrites_bitn (ws : List HostWrite) : (s.hostWrites ws).bitn = s.bitn := by
  rw [State.hostWrites_keeps]
@[simp] theorem State.hostWrites_cyc (ws : List HostWrite) : (s.hostWrites ws).cyc = s.cyc := by
  rw [State.hostWrites_keeps]
@[simp] theorem State.hostWrites_ptr (ws : List HostWrite) : (s.hostWrites ws).ptr = s.ptr := by
  rw [State.hostWrites_keeps]
@[simp] theorem State.hostWrites_cnt (ws : List HostWrite) : (s.hostWrites ws).cnt = s.cnt := by
  rw [State.hostWrites_keeps]
@[simp] theorem State.hostWrites_mask (ws : List HostWrite) : (s.hostWrites ws).mask = s.mask := by
  rw [State.hostWrites_keeps]
@[simp] theorem State.hostWrites_holdn (ws : List HostWrite) : (s.hostWrites ws).holdn = s.holdn := by
  rw [State.hostWrites_keeps]
@[simp] theorem State.hostWrites_rcnt (ws : List HostWrite) : (s.hostWrites ws).rcnt = s.rcnt := by
  rw [State.hostWrites_keeps]
@[simp] theorem State.hostWrites_ieSave (ws : List HostWrite) : (s.hostWrites ws).ieSave = s.ieSave := by
  rw [State.hostWrites_keeps]
@[simp] theorem State.hostWrites_resp (ws : List HostWrite) : (s.hostWrites ws).resp = s.resp := by
  rw [State.hostWrites_keeps]
@[simp] theorem State.hostWrites_wave (ws : List HostWrite) : (s.hostWrites ws).wave = s.wave := by
  rw [State.hostWrites_keeps]
@[simp] theorem State.hostWrites_build (ws : List HostWrite) : (s.hostWrites ws).build = s.build := by
  rw [State.hostWrites_keeps]
@[simp] theorem State.hostWrites_host (ws : List HostWrite) : (s.hostWrites ws).host = s.host := by
  rw [State.hostWrites_keeps]
@[simp] theorem State.hostWrites_outside (ws : List HostWrite) : (s.hostWrites ws).outside = s.outside := by
  rw [State.hostWrites_keeps]

end Sys2Proof.Machine
end

