-- ==== Sys2Proof/Laws/Ops.lean ====
section
/-!
SUPPORT. One lemma per shared operation that says everything it can do, and the same for a cycle and a step: cite
these, do not unfold the operations.
-/
namespace Sys2Proof.Machine

/-- The build's pin mask is a legal mask (R7, R85). -/
@[simp] theorem oneHot_pinMask (c : Config) : oneHot (pinMask c) = true := by
  have h : ∀ p : Fin 8, oneHot (1#8 <<< p.val) = true := by decide
  exact h c.pin

/-- The three byte counts as numbers: nothing wraps (R86, R173). -/
@[simp] theorem byteCountTransmit_toNat (n : Count) : (byteCountTransmit n).toNat = n.toNat := by
  simp only [byteCountTransmit, BitVec.toNat_setWidth]; omega

@[simp] theorem byteCountRgb_toNat (n : Count) : (byteCountRgb n).toNat = 3 * n.toNat := by
  simp only [byteCountRgb, BitVec.toNat_mul, BitVec.toNat_setWidth, BitVec.toNat_ofNat]; omega

@[simp] theorem byteCountRgbw_toNat (n : Count) : (byteCountRgbw n).toNat = 4 * n.toNat := by
  simp only [byteCountRgbw, BitVec.toNat_mul, BitVec.toNat_setWidth, BitVec.toNat_ofNat]; omega

/-- Busy or idle. -/
theorem State.busy_eq_false {s : State} : s.busy = false ↔ s.st = .idle := by simp [State.busy]

theorem State.busy_eq_true {s : State} : s.busy = true ↔ s.st = .send ∨ s.st = .hold := by
  cases h : s.st <;> simp [State.busy, h]

/-- A frame command gives a next state exactly when it is admitted, and then it is the acceptance step (R131, R132). -/
theorem acceptFrame_next {count : Count} {a : Addr} {n : ByteCount} {m : Port} {h : Nat} {s t : State} :
    acceptFrame count a n m h s = .next t ↔
      s.st = .idle ∧ count ≠ 0#16 ∧ oneHot m = true ∧ admitted s.mem a n = true ∧
        ∃ b, s.mem.read a.toNat = some b ∧ t = s.latchFrame a n m h b := by
  unfold acceptFrame
  constructor
  · intro e
    split at e
    · cases e
    split at e
    · cases e
    split at e
    · cases e
    split at e
    · cases e
    next hb hc hm ha =>
      split at e
      · cases e
      next b hr =>
        refine ⟨State.busy_eq_false.1 (by simpa using hb), hc, by simpa using hm, by simpa using ha, b, hr, ?_⟩
        injection e with e; exact e.symm
  · rintro ⟨hi, hc, hm, ha, b, hr, rfl⟩
    simp [State.busy, hi, hc, hm, ha, hr]

/-- A frame command never faults (60_exceptions.md R183). -/
theorem acceptFrame_not_fault {count : Count} {a : Addr} {n : ByteCount} {m : Port} {h : Nat} {s : State} {f : Fault} :
    acceptFrame count a n m h s ≠ .fault f := by
  unfold acceptFrame
  repeat' (first | split | exact fun e => nomatch e)

/-- Everything a `SEND` cycle can do when it gives a next state (R133 to R136). -/
theorem sendCycle_next {b : Bool} {s t : State} :
    sendCycle b s = .next t ↔
      (s.cyc + 1 < s.cfg.nTotal ∧ t = s.insideBit b)
      ∨ (s.cyc + 1 = s.cfg.nTotal ∧ s.bitn ≠ 0#3 ∧ t = s.nextBit)
      ∨ (s.cyc + 1 = s.cfg.nTotal ∧ s.bitn = 0#3 ∧ s.cnt ≠ 0#18 ∧
          ∃ byte, s.mem.read s.ptr.toNat = some byte ∧ t = s.nextByte byte)
      ∨ (s.cyc + 1 = s.cfg.nTotal ∧ s.bitn = 0#3 ∧ s.cnt = 0#18 ∧ t = s.endFrame) := by
  unfold sendCycle
  by_cases h1 : s.cyc + 1 < s.cfg.nTotal
  · simp [h1, Nat.ne_of_lt h1]
    exact eq_comm
  by_cases h2 : s.cyc + 1 = s.cfg.nTotal
  · by_cases h3 : s.bitn = 0#3
    · by_cases h4 : s.cnt = 0#18
      · simp [h2, h3, h4]
        exact eq_comm
      · cases hr : s.mem.read s.ptr.toNat <;> simp [h2, h3, h4]
        exact eq_comm
    · simp [h2, h3]
      exact eq_comm
  · simp [h1, h2]

/-- Everything a `HOLD` cycle can do when it gives a next state (R137). -/
theorem holdCycle_next {s t : State} : holdCycle s = .next t ↔ s.rcnt ≠ 0 ∧ t = s.holdStep := by
  by_cases h : s.rcnt = 0 <;> simp [holdCycle, h]
  exact eq_comm

/-- `exec` of each instruction, inverted: what holds when it gives a next state. -/
theorem execCorrect_next {idx : Byte} {s t : State} :
    execCorrect idx s = .next t ↔ s.st = .idle ∧ t = { s with resp := some (s.cfg.dimAt idx) } := by
  cases h : s.st <;> simp [execCorrect, State.busy, h]
  exact eq_comm

theorem execSym0_next {s t : State} :
    execSym0 s = .next t ↔ s.st = .send ∧ s.sr.msb = false ∧ sendCycle false s = .next t := by
  cases h : s.st <;> cases h' : s.sr.msb <;> simp [execSym0, State.carries, h, h']

theorem execSym1_next {s t : State} :
    execSym1 s = .next t ↔ s.st = .send ∧ s.sr.msb = true ∧ sendCycle true s = .next t := by
  cases h : s.st <;> cases h' : s.sr.msb <;> simp [execSym1, State.carries, h, h']

theorem execReset_next {s t : State} :
    execReset s = .next t ↔ (s.st = .hold ∧ holdCycle s = .next t) ∨ (s.st = .idle ∧ t = s) := by
  cases h : s.st <;> simp [execReset, h]
  exact eq_comm

/-- Everything an instruction can do when it gives a next state. -/
theorem exec_next {i : Instr} {s t : State} (e : exec i s = .next t) :
    (∃ idx, i = .correct idx ∧ s.st = .idle ∧ t = { s with resp := some (s.cfg.dimAt idx) })
    ∨ (i.sendsFrame = true ∧ s.st = .idle ∧
        ∃ a n m h b, n ≠ 0#18 ∧ oneHot m = true ∧ (h = 0 ∨ h = s.cfg.nResetRgb ∨ h = s.cfg.nResetRgbw) ∧
          admitted s.mem a n = true ∧ s.mem.read a.toNat = some b ∧ t = s.latchFrame a n m h b)
    ∨ (i = s.symbol ∧ s.st = .send ∧ sendCycle s.sr.msb s = .next t)
    ∨ (i = .reset ∧ s.st = .hold ∧ s.rcnt ≠ 0 ∧ t = s.holdStep)
    ∨ (i = .reset ∧ s.st = .idle ∧ t = s) := by
  cases i with
  | correct idx => exact .inl ⟨idx, rfl, execCorrect_next.1 e⟩
  | transmit a n m =>
    obtain ⟨hi, hc, hm, ha, b, hr, rfl⟩ := acceptFrame_next.1 e
    refine .inr (.inl ⟨rfl, hi, a, _, m, 0, b, fun h => hc ?_, hm, .inl rfl, ha, hr, rfl⟩)
    have := congrArg BitVec.toNat h; rw [byteCountTransmit_toNat] at this; exact BitVec.eq_of_toNat_eq this
  | showRgb a n =>
    obtain ⟨hi, hc, hm, ha, b, hr, rfl⟩ := acceptFrame_next.1 e
    refine .inr (.inl ⟨rfl, hi, a, _, _, _, b, fun h => hc ?_, hm, .inr (.inl rfl), ha, hr, rfl⟩)
    have := congrArg BitVec.toNat h; rw [byteCountRgb_toNat] at this
    exact BitVec.eq_of_toNat_eq (by simpa using this)
  | showRgbw a n =>
    obtain ⟨hi, hc, hm, ha, b, hr, rfl⟩ := acceptFrame_next.1 e
    refine .inr (.inl ⟨rfl, hi, a, _, _, _, b, fun h => hc ?_, hm, .inr (.inr rfl), ha, hr, rfl⟩)
    have := congrArg BitVec.toNat h; rw [byteCountRgbw_toNat] at this
    exact BitVec.eq_of_toNat_eq (by simpa using this)
  | sym0 =>
    obtain ⟨hs, hb, h⟩ := execSym0_next.1 e
    exact .inr (.inr (.inl ⟨by simp [State.symbol, bitSymbol, hb], hs, by rw [hb]; exact h⟩))
  | sym1 =>
    obtain ⟨hs, hb, h⟩ := execSym1_next.1 e
    exact .inr (.inr (.inl ⟨by simp [State.symbol, bitSymbol, hb], hs, by rw [hb]; exact h⟩))
  | reset =>
    obtain ⟨hs, h⟩ | ⟨hs, rfl⟩ := execReset_next.1 e
    · obtain ⟨hr, rfl⟩ := holdCycle_next.1 h
      exact .inr (.inr (.inr (.inl ⟨rfl, hs, hr, rfl⟩)))
    · exact .inr (.inr (.inr (.inr ⟨rfl, hs, rfl⟩)))

/-- The symbol a `SEND` cycle executes is one `SEND` cycle of the bit in `SR[7]`. -/
theorem exec_symbol {s : State} (h : s.st = .send) : exec s.symbol s = sendCycle s.sr.msb s := by
  cases hb : s.sr.msb <;> simp [State.symbol, bitSymbol, hb, exec, execSym0, execSym1, State.carries, h]

/-- Everything a step can do when it gives a next state: a command, an idle cycle with the host's writes, a reset of
the idle engine, a `SEND` cycle, a `HOLD` cycle. -/
theorem step_next {s t : State} (e : step s = .next t) :
    (∃ w i u, s.presents w u ∧ decodeCommand w = .ok i ∧ exec i u = .next t)
    ∨ (s.st = .idle ∧ ∃ rest ws, t = { s.sample with host := rest }.hostWrites ws)
    ∨ (s.st = .send ∧ s.drive.rst = false ∧ s.drive.cmd = none ∧ sendCycle s.sr.msb s.sample = .next t)
    ∨ (s.st = .hold ∧ s.drive.rst = false ∧ s.drive.cmd = none ∧ holdCycle s.sample = .next t) := by
  have present_next : ∀ {w : CommandWord} {u : State}, s.presents w u →
      (match present w u with | .run i t => exec i t | .quiet t => .next t | .refuse r => .refused r) = .next t →
      ∃ w i u, s.presents w u ∧ decodeCommand w = .ok i ∧ exec i u = .next t := by
    intro w u hp h
    unfold present at h
    split at h
    · next i u' he =>
      split at he
      · next j hd => injection he with h1 h2; subst h1; subst h2; exact ⟨w, _, _, hp, hd, h⟩
      · cases he
    · next u' he => split at he <;> cases he
    · cases h
  unfold step fetch at e
  by_cases hr : s.drive.rst = true
  · rw [if_pos hr] at e
    cases hst : s.st
    · simp only [State.busy, hst] at e
      refine .inr (.inl ⟨rfl, ?_⟩)
      unfold resetCycle at e
      cases hh : s.sample.host with
      | nil =>
        simp only [hh] at e
        injection e with e
        exact ⟨[], [], by rw [← e, ← hh]; simp [State.hostWrites, ← hst]⟩
      | cons mv rest =>
        cases mv with
        | command w =>
          simp only [hh] at e
          injection e with e
          exact ⟨rest, [], by rw [← e]; simp [State.hostWrites, ← hst]⟩
        | idle ws =>
          simp only [hh] at e
          injection e with e
          exact ⟨rest, ws, by rw [← e, ← hst]; rfl⟩
    · simp [State.busy, hst] at e
    · simp [State.busy, hst] at e
  · rw [if_neg hr] at e
    have hr : s.drive.rst = false := by simpa using hr
    cases hst : s.st <;> simp only [hst] at e
    · unfold idleCycle at e
      cases hc : s.drive.cmd with
      | some w =>
        simp only [hc] at e
        exact .inl (present_next ⟨hst, hr, .inl ⟨hc, rfl⟩⟩ e)
      | none =>
        cases hh : s.sample.host with
        | nil =>
          simp only [hc, hh] at e
          injection e with e
          exact .inr (.inl ⟨rfl, [], [], by rw [← e, ← hh]; rfl⟩)
        | cons mv rest =>
          have hh' : s.host = mv :: rest := hh
          cases mv with
          | command w =>
            simp only [hc, hh] at e
            exact .inl (present_next ⟨hst, hr, .inr ⟨hc, by simp [hh'], by simp [hh']⟩⟩ e)
          | idle ws =>
            simp only [hc, hh] at e
            injection e with e
            exact .inr (.inl ⟨rfl, rest, ws, e.symm⟩)
    · cases hc : s.drive.cmd <;> simp [hc] at e
      rw [show s.symbol = s.sample.symbol from rfl, exec_symbol (s := s.sample) hst] at e
      exact .inr (.inr (.inl ⟨rfl, hr, rfl, e⟩))
    · cases hc : s.drive.cmd <;> simp [hc] at e
      refine .inr (.inr (.inr ⟨rfl, hr, rfl, ?_⟩))
      simpa [exec, execReset, hst] using e

/-- A step that is presented a command executes it. -/
theorem step_presents {s u : State} {w : CommandWord} {i : Instr} (hp : s.presents w u)
    (hd : decodeCommand w = .ok i) : step s = exec i u := by
  obtain ⟨hi, hr, ⟨hc, rfl⟩ | ⟨hc, hh, rfl⟩⟩ := hp
  · simp [step, fetch, hr, hi, idleCycle, hc, present, hd]
  · have hh' : s.host = .command w :: s.host.tail := by
      cases h : s.host <;> simp_all
    have hs : s.sample.host = .command w :: s.host.tail := hh'
    simp only [step, fetch, hr, hi, idleCycle, hc, hs, present, hd]
    rfl

/-- An idle cycle in which the host makes its writes. -/
theorem step_idle {s : State} {ws : List HostWrite} {rest : List HostMove} (hi : s.st = .idle)
    (hr : s.drive.rst = false) (hc : s.drive.cmd = none) (hh : s.host = .idle ws :: rest) :
    step s = .next ({ s.sample with host := rest }.hostWrites ws) := by
  have hs : s.sample.host = .idle ws :: rest := hh
  simp only [step, fetch, hr, hi, idleCycle, hc, hs]
  rfl

/-- A `SEND` cycle with quiet inputs. -/
theorem step_send {s : State} (h : s.st = .send) (hr : s.drive.rst = false) (hc : s.drive.cmd = none) :
    step s = sendCycle s.sr.msb s.sample := by
  simp only [step, fetch, hr, h, hc]
  exact exec_symbol (s := s.sample) h

/-- A `HOLD` cycle with quiet inputs. -/
theorem step_hold {s : State} (h : s.st = .hold) (hr : s.drive.rst = false) (hc : s.drive.cmd = none) :
    step s = holdCycle s.sample := by
  simp [step, fetch, hr, h, hc, exec, execReset]

/-- Inputs that stay quiet are quiet now, and after the cycle is sampled. -/
theorem State.quietInputs_drive {s : State} (h : s.quietInputs) : s.drive = { rst := false, cmd := none } := by
  simp [State.drive, h]

theorem State.quietInputs_sample {s : State} (h : s.quietInputs) : s.sample.quietInputs :=
  congrArg List.tail h

/-- One step, then the rest. -/
theorem steps_succ_of_next {k : Nat} {s t : State} (h : step s = .next t) : steps (k + 1) s = steps k t := by
  simp [steps, h]

/-- A run that is over ends here; otherwise its end is that of the run from the next state. -/
theorem runEnd_of_over {fuel : Nat} {s : State} (h : s.runOver = true) : runEnd fuel s = some s := by
  cases fuel <;> simp [runEnd, h]

theorem runEnd_of_next {fuel : Nat} {s t : State} (h : s.runOver = false) (e : step s = .next t) :
    runEnd (fuel + 1) s = runEnd fuel t := by
  simp [runEnd, h, e]

/-- A place holds what the last write of the rest wrote there, else what the first write wrote. -/
theorem lastWrite_cons {α : Type} (f : HostWrite → Option α) (w : HostWrite) (ws : List HostWrite) :
    lastWrite f (w :: ws) = (lastWrite f ws).or (f w) := by
  simp only [lastWrite, List.filterMap_cons]
  cases f w with
  | none => simp
  | some v => simp only [List.getLast?_cons]; cases (List.filterMap f ws).getLast? <;> rfl

/-- Runs compose. -/
theorem steps_add_of_next {j k : Nat} {s t : State} (h : steps j s = .next t) : steps (j + k) s = steps k t := by
  induction j generalizing s with
  | zero => simp only [steps] at h; injection h with h; simp [h]
  | succ j ih =>
    rw [show j + 1 + k = (j + k) + 1 by omega]
    simp only [steps] at h ⊢
    split at h
    · next u hu => exact ih h
    · cases h
    · cases h

end Sys2Proof.Machine
end

