-- ==== Sys2Proof/Laws/PerInstr.lean ====
section
/-!
SUPPORT. Statements about every instruction as syntax. `Encoding`: each command is spelled by exactly one encoding,
the command word or the wire, and a command's word matches its row of the opcode table (30_encoding.md R80, R82).
-/
namespace Sys2Proof.Laws.Encoding

/-- The `match` value of the row, under the mask `0xFF0000000000` common to all four commands (R82); none for the wire
symbols, which have no command word (R80). -/
def tableMatch : Instr → Option CommandWord
  | .correct _ => some 0x010000000000#48
  | .transmit _ _ _ => some 0x020000000000#48
  | .showRgb _ _ => some 0x030000000000#48
  | .showRgbw _ _ => some 0x040000000000#48
  | .sym0 => none
  | .sym1 => none
  | .reset => none

/-- The encoded word under the mask is the row's match value, and an instruction has a command word or a level string,
never both. -/
def Statement (i : Instr) : Prop :=
  (encodeCommand i).map (· &&& 0xFF0000000000#48) = tableMatch i
    ∧ ∀ c f, (encodeWire c f i).isSome = (encodeCommand i).isNone

/-- The opcode field of a packed word, under the table's mask. -/
theorem commandWord_masked (op : BitVec 8) (m : Port) (n : Count) (a : Addr) :
    commandWord op m n a &&& 0xFF0000000000#48 = op.setWidth 48 <<< 40 := by
  unfold commandWord
  apply BitVec.eq_of_getLsbD_eq
  intro i hi
  have hm : (0xFF0000000000#48).getLsbD i = decide (40 ≤ i) := by
    have : ∀ j : Fin 48, (0xFF0000000000#48).getLsbD j.val = decide (40 ≤ j.val) := by decide
    exact this ⟨i, hi⟩
  simp only [BitVec.getLsbD_and, hm, BitVec.getLsbD_append, BitVec.getLsbD_shiftLeft, BitVec.getLsbD_setWidth]
  by_cases h : 40 ≤ i
  · have h1 : ¬ i < 16 := by omega
    have h2 : ¬ i - 16 < 16 := by omega
    have h3 : ¬ i - 16 - 16 < 8 := by omega
    have h4 : i - 16 - 16 - 8 = i - 40 := by omega
    have h5 : ¬ i < 40 := by omega
    have h6 : i - 40 < 48 := by omega
    simp [h, h1, h2, h3, h4, h5, h6, hi]
  · have h5 : i < 40 := by omega
    simp [h, h5]

theorem correct (idx : Byte) : Statement (.correct idx) :=
  ⟨by simp [encodeCommand, tableMatch, commandWord_masked], fun _ _ => rfl⟩

theorem transmit (a : Addr) (n : Count) (m : Port) : Statement (.transmit a n m) :=
  ⟨by simp [encodeCommand, tableMatch, commandWord_masked], fun _ _ => rfl⟩

theorem showRgb (a : Addr) (n : Count) : Statement (.showRgb a n) :=
  ⟨by simp [encodeCommand, tableMatch, commandWord_masked], fun _ _ => rfl⟩

theorem showRgbw (a : Addr) (n : Count) : Statement (.showRgbw a n) :=
  ⟨by simp [encodeCommand, tableMatch, commandWord_masked], fun _ _ => rfl⟩

theorem sym0 : Statement .sym0 := ⟨rfl, fun _ _ => rfl⟩

theorem sym1 : Statement .sym1 := ⟨rfl, fun _ _ => rfl⟩

theorem reset : Statement .reset := ⟨rfl, fun _ _ => rfl⟩

end Sys2Proof.Laws.Encoding
end

