-- ==== Sys2Proof/Laws/Timing.lean ====
section
/-!
SUPPORT. The build-time functions: windows are at least one cycle (41_timing_derivation.md R112 to R114), and what a
build's well-formedness gives (R6, R10, R11, R101, R117).
-/
namespace Sys2Proof

/-- Each window is clamped to at least one cycle (R112 to R114). -/
theorem Config.w1_pos (c : Config) : 1 ≤ c.w1 := by unfold Config.w1; omega

theorem Config.w2_pos (c : Config) : 1 ≤ c.w2 := by unfold Config.w2; omega

theorem Config.w3_pos (c : Config) : 1 ≤ c.w3 := by unfold Config.w3; omega

/-- The pin is high in the first cycle of a bit. -/
theorem Config.highCycles_pos (c : Config) (b : Bool) : 1 ≤ c.highCycles b := by
  have := c.w1_pos
  cases b <;> simp [Config.highCycles, Config.nOne, Config.nZero] <;> omega

/-- The pin is low in the last cycle of a bit. -/
theorem Config.highCycles_lt (c : Config) (b : Bool) : c.highCycles b < c.nTotal := by
  have := c.w2_pos
  have := c.w3_pos
  cases b <;> simp [Config.highCycles, Config.nOne, Config.nZero, Config.nTotal] <;> omega

/-- A bit period has `N_TOTAL` cycles, starts high, and has a shape of its own for each bit (R89). -/
@[simp] theorem symLevels_length (c : Config) (b : Bool) : (symLevels c b).length = c.nTotal := by
  have := c.highCycles_lt b
  simp [symLevels]; omega

theorem symLevels_cons (c : Config) (b : Bool) : ∃ rest, symLevels c b = true :: rest := by
  obtain ⟨k, hk⟩ : ∃ k, c.highCycles b = k + 1 := ⟨c.highCycles b - 1, by have := c.highCycles_pos b; omega⟩
  exact ⟨_, by rw [symLevels, hk, List.replicate_succ]; rfl⟩

theorem symLevels_ne (c : Config) : symLevels c true ≠ symLevels c false := by
  intro h
  have hc := congrArg (List.count true) h
  simp [symLevels, Config.highCycles, Config.nOne, Config.nZero, List.count_replicate] at hc
  have := c.w2_pos
  omega

/-- What the proof that a build carries says, field by field. -/
theorem Build.wf_parts (b : Build) :
    0 < b.cfg.fClk ∧ b.cfg.tZeroNs ≤ b.cfg.tZeroWarnNs ∧ b.cfg.tZeroWarnNs ≤ b.cfg.tZeroFatalNs
      ∧ b.cfg.tZeroFatalNs < b.cfg.tOneNs ∧ 50 ≤ b.cfg.tResetRgbUs ∧ b.cfg.tResetRgbUs ≤ 280
      ∧ 50 ≤ b.cfg.tResetRgbwUs ∧ b.cfg.tResetRgbwUs ≤ 280 ∧ dimLaws b.cfg.dim = true ∧ b.cfg.diag ≠ .fatal := by
  have h := b.ok
  simp only [Config.wf, Bool.and_eq_true, decide_eq_true_eq] at h
  obtain ⟨⟨⟨⟨⟨⟨⟨⟨⟨h1, h2⟩, h3⟩, h4⟩, h5⟩, h6⟩, h7⟩, h8⟩, h9⟩, h10⟩ := h
  exact ⟨h1, h2, h3, h4, h5, h6, h7, h8, h9, h10⟩

/-- A ceiling of a positive number of cycles is positive (R121). -/
theorem ceilMillion_pos {a : Nat} (h : 0 < a) : 1 ≤ ceilMillion a := by unfold ceilMillion; omega

/-- A build's hold lengths are never 0 (R121). -/
theorem Build.nReset_pos (b : Build) (f : Family) : 1 ≤ b.cfg.nReset f := by
  obtain ⟨hf, -, -, -, h5, -, h7, -⟩ := b.wf_parts
  cases f
  · exact ceilMillion_pos (Nat.mul_pos (by omega) hf)
  · exact ceilMillion_pos (Nat.mul_pos (by omega) hf)

/-- A build's table has 256 entries (R12). -/
theorem Build.dim_length (b : Build) : b.cfg.dim.length = 256 := by
  have h := b.wf_parts.2.2.2.2.2.2.2.2.1
  simp only [dimLaws, Bool.and_eq_true, beq_iff_eq] at h
  exact h.1.1.1

end Sys2Proof
end

