-- ==== Sys2Proof/Tests/Slice0.lean ====
section
/-!
SUPPORT. Tests on fixed values, and for every statement with hypotheses a witness that meets them. Expected values are
from 95_test_vectors.md (vectors V.., S..), 41_timing_derivation.md R124 and 42_transmit.md R149, or counted by hand
from the rule cited. Two configurations are used: `CFG2` (2 MHz) and `CFG8` (8 MHz).
-/

namespace Sys2Proof.Tests

open Sys2Proof.Machine

-- one test after the other: as many threads as tests would not fit the memory a compile may use
set_option Elab.async false

/-- `DIM_ID` (40_dimming.md R104 (a)). -/
def dimId : List Byte := (List.range 256).map (BitVec.ofNat 8)

/-- `DIM_SQ` (R104 (b)). -/
def dimSq : List Byte := (List.range 256).map (fun b => BitVec.ofNat 8 ((b * b + 127) / 255))

def cfg2 : Config := { fClk := 2000000, pin := 0, tResetRgbUs := 280, tResetRgbwUs := 280, dim := dimId }

def cfg8 : Config := { cfg2 with fClk := 8000000, pin := 5, tResetRgbUs := 50, dim := dimSq }

def b2 : Build := { cfg := cfg2, ok := by decide +kernel }

def b8 : Build := { cfg := cfg8, ok := by decide +kernel }

/-- Idle, with the bytes of V53 at 0, and one byte at the top of the address space. -/
def idle2 : State :=
  { State.reset with build := b2, mem := [(0, 0x80#8), (1, 0x01#8), (2, 0xFF#8), (3, 0x00#8), (65535, 0x00#8)] }

/-- The same on `CFG8`. -/
def idle8 : State := { idle2 with build := b8 }

/-- A `SEND` cycle of `CFG2` (V53, cycle 1). -/
def send2 : State :=
  { idle2 with
    st := .send, sr := 0x80#8, bitn := 7#3, ptr := 1#16, cnt := 1#18, mask := 1#8, ieSave := true, port := 1#8
    ddr := 1#8, ie := false }

/-- A `HOLD` cycle of `CFG2` with a hold length of 560 cycles. -/
def hold2 : State := { idle2 with st := .hold, mask := 1#8, holdn := 560, rcnt := 560, ddr := 1#8 }

/-- `s` with the host presenting `w`. -/
def presenting (s : State) (w : CommandWord) : State := { s with host := [.command w] }

/-- `s` with another agent driving the engine's inputs in this cycle. -/
def driven (s : State) (d : OutsideDrive) : State := { s with outside := [d] }

/-- The result is this next state (results have no decidable equality of their own). -/
def gives : Result → State → Bool
  | .next s, t => decide (s = t)
  | .fault _, _ => false
  | .refused _, _ => false

/-- The result is this refusal. -/
def refuses : Result → Refusal → Bool
  | .refused r, q => decide (r = q)
  | .next _, _ => false
  | .fault _, _ => false

/-- The result is this fault. -/
def faults : Result → Fault → Bool
  | .fault r, q => decide (r = q)
  | .next _, _ => false
  | .refused _, _ => false

theorem eq_of_gives {r : Result} {t : State} (h : gives r t = true) : r = .next t := by
  cases r <;> simp_all [gives]

/-! ### Encodings, by hand from 30_encoding.md R81, R82, R89, R90 -/

theorem test_decode_correct : decodeCommand 0x01FFFFFFFFA5#48 = .ok (.correct 0xA5#8) := by decide

theorem test_decode_transmit : decodeCommand 0x020400030200#48 = .ok (.transmit 0x0200#16 3#16 0x04#8) := by decide

theorem test_decode_showRgb : decodeCommand 0x03FF00010100#48 = .ok (.showRgb 0x0100#16 1#16) := by decide

theorem test_decode_showRgbw : decodeCommand 0x040040000004#48 = .ok (.showRgbw 4#16 0x4000#16) := by decide

theorem test_decode_reserved :
    decodeCommand 0x000100010100#48 = .error (.reservedOpcode 0#8)
      ∧ decodeCommand 0x050000010100#48 = .error (.reservedOpcode 5#8)
      ∧ decodeCommand 0xFF0100010100#48 = .error (.reservedOpcode 0xFF#8) := by decide

theorem test_decode_sym0 :
    decodeWire cfg2 .rgb [true, false, false] = some .sym0
      ∧ decodeWire cfg8 .rgb [true, true, true, false, false, false, false, false, false, false] = some .sym0 := by
  decide +kernel

theorem test_decode_sym1 :
    decodeWire cfg2 .rgb [true, true, false] = some .sym1
      ∧ decodeWire cfg8 .rgb [true, true, true, true, true, true, true, false, false, false] = some .sym1 := by
  decide +kernel

/-- `CFG8` with 50 µs: 400 low cycles are a `RESET` of the RGB families, 399 are none (V71). -/
theorem test_decode_reset :
    decodeWire cfg8 .rgb (List.replicate 400 false) = some .reset
      ∧ decodeWire cfg8 .rgb (List.replicate 399 false) = none
      ∧ decodeWire cfg8 .rgbw (List.replicate 400 false) = none
      ∧ decodeWire cfg2 .rgb [true, true, true] = none := by
  decide +kernel

theorem test_encode_transmit : encodeCommand (.transmit 0x0200#16 3#16 0x04#8) = some 0x020400030200#48 := by decide

theorem test_decodeTableWord :
    decodeTableWord 48 0x010000000000 = some (.correct 0#8)
      ∧ decodeTableWord 48 0x020000000000 = some (.transmit 0#16 0#16 0#8)
      ∧ decodeTableWord 48 0x030055550000 = some (.showRgb 0#16 21845#16)
      ∧ decodeTableWord 48 0x040000000000 = some (.showRgbw 0#16 0#16)
      ∧ decodeTableWord 48 0x000000000000 = none ∧ decodeTableWord 56 0x010000000000 = none := by decide

/-- The byte `0xA5` of V43, as levels on the wire of `CFG2`. -/
theorem test_frameLevels :
    frameLevels cfg2 [0xA5#8] =
      [true, true, false, true, false, false, true, true, false, true, false, false,
        true, false, false, true, true, false, true, false, false, true, true, false] := by decide +kernel

/-! ### Well-formed instructions: one ill-formed term for each check of R85 -/

theorem test_wf_zero_count :
    (Instr.transmit 0x0100#16 0#16 1#8).wf = false ∧ (Instr.showRgb 0x0100#16 0#16).wf = false
      ∧ (Instr.showRgbw 0x0100#16 0#16).wf = false := by decide

theorem test_wf_mask :
    (Instr.transmit 0x0100#16 3#16 0#8).wf = false ∧ (Instr.transmit 0x0100#16 3#16 3#8).wf = false
      ∧ (Instr.transmit 0x0100#16 3#16 0x80#8).wf = true := by decide

/-- V60, V61, V74 to V77; the first is the model's choice (log entry 26). -/
theorem test_wf_wrap :
    (Instr.showRgb 1#16 21845#16).wf = true
      ∧ (Instr.transmit 0xFFFF#16 1#16 1#8).wf = true ∧ (Instr.transmit 0xFFFF#16 2#16 1#8).wf = false
      ∧ (Instr.showRgb 0#16 21845#16).wf = true ∧ (Instr.showRgb 0#16 21846#16).wf = false
      ∧ (Instr.showRgbw 0#16 16384#16).wf = true ∧ (Instr.showRgbw 4#16 16384#16).wf = false := by decide

/-! ### The build-time derivation: rows of R124, V10 to V39 -/

theorem test_counts_cfg2 : (cfg2.nZero, cfg2.nOne, cfg2.nTotal, cfg2.nResetRgb) = (1, 2, 3, 560) := by decide

theorem test_counts_cfg8 :
    (cfg8.nZero, cfg8.nOne, cfg8.nTotal, cfg8.nResetRgb, cfg8.nResetRgbw) = (3, 7, 10, 400, 2240) := by decide

theorem test_diag :
    cfg2.diag = .advisory ∧ cfg8.diag = .ok ∧ { cfg2 with fClk := 1818181 }.diag = .fatal
      ∧ { cfg2 with fClk := 1818182 }.diag = .advisory ∧ { cfg2 with fClk := 2222223 }.diag = .ok := by decide

theorem test_dim_sq : (cfg8.dimAt 127#8, cfg8.dimAt 128#8, cfg8.dimAt 200#8) = (0x3F#8, 0x40#8, 0x9D#8) := by
  decide +kernel

/-! ### One step of each instruction -/

/-- V9. -/
theorem test_step_correct :
    gives (step (presenting idle8 0x01FFFFFFFFA5#48))
        { idle8 with resp := some 0x6B#8, wave := [(0#8, 0#8)] } := by decide +kernel

/-- V53, cycle 1: the state acceptance leaves. -/
theorem test_step_transmit :
    gives (step (presenting idle2 0x020100020000#48)) { idle2 with
          st := .send, sr := 0x80#8, bitn := 7#3, cyc := 0, ptr := 1#16, cnt := 1#18, mask := 1#8, holdn := 0
          ieSave := true, ie := false, port := 1#8, ddr := 1#8, wave := [(0#8, 0#8)] } := by decide +kernel

/-- V60: after the byte at `0xFFFF` the pointer wraps to 0. -/
theorem test_step_transmit_top :
    gives (exec (.transmit 0xFFFF#16 1#16 1#8) idle2) { idle2 with
          st := .send, sr := 0#8, bitn := 7#3, ptr := 0#16, mask := 1#8, ieSave := true, ie := false
          port := 1#8, ddr := 1#8 } := by decide +kernel

/-- V72: the mask field is ignored and pin 5 is driven; the hold length is that of 50 µs. -/
theorem test_step_showRgb :
    gives (step (presenting idle8 0x03FF00010000#48)) { idle8 with
          st := .send, sr := 0x40#8, bitn := 7#3, ptr := 1#16, cnt := 2#18, mask := 0x20#8, holdn := 400
          ieSave := true, ie := false, port := 0x20#8, ddr := 0x20#8, wave := [(0#8, 0#8)] } := by decide +kernel

/-- One record of four bytes. -/
theorem test_step_showRgbw :
    gives (exec (.showRgbw 0#16 1#16) idle8) { idle8 with
          st := .send, sr := 0x40#8, bitn := 7#3, ptr := 1#16, cnt := 3#18, mask := 0x20#8, holdn := 2240
          ieSave := true, ie := false, port := 0x20#8, ddr := 0x20#8 } := by decide +kernel

/-- V53, cycles 2 and 3: `b = 1` does not clear at `N_ZERO`, it clears at `N_ONE`. -/
theorem test_step_sym1 :
    gives (step send2) { send2 with cyc := 1, wave := [(1#8, 1#8)] }
      ∧ gives (exec .sym1 { send2 with cyc := 1 }) { send2 with cyc := 2, port := 0#8 } := by decide +kernel

/-- V53, cycles 5 and 25: `b = 0` clears at `N_ZERO`; the next byte is loaded at the end of a byte. -/
theorem test_step_sym0 :
    gives (exec .sym0 { send2 with sr := 0#8, bitn := 6#3 })
        { send2 with sr := 0#8, bitn := 6#3, cyc := 1, port := 0#8 }
      ∧ gives (exec .sym0 { send2 with sr := 0#8, bitn := 0#3, cyc := 2, port := 0#8 })
          { send2 with sr := 1#8, ptr := 2#16, cnt := 0#18, port := 1#8 } := by decide +kernel

/-- V53, cycle 49: the end of a frame without a hold; with a hold the engine goes on to it. -/
theorem test_end_of_frame :
    gives (exec .sym1 { send2 with bitn := 0#3, cnt := 0#18, cyc := 2, port := 0#8 })
        { send2 with st := .idle, bitn := 0#3, cnt := 0#18, cyc := 2, port := 0#8, ie := true }
      ∧ gives (exec .sym1 { send2 with bitn := 0#3, cnt := 0#18, cyc := 2, port := 0#8, holdn := 560 }) { send2 with
            st := .hold, bitn := 0#3, cnt := 0#18, cyc := 2, port := 0#8, ie := true, holdn := 560, rcnt := 560 } := by
  decide +kernel

/-- R137: the last hold cycle, and one before. -/
theorem test_step_reset :
    gives (step hold2) { hold2 with rcnt := 559, wave := [(0#8, 1#8)] }
      ∧ gives (exec .reset { hold2 with rcnt := 1 }) { hold2 with rcnt := 0, st := .idle } := by decide +kernel

/-- V61 to V66, V73, V75, V77: the refusals. -/
theorem test_refusals :
    refuses (step (presenting idle2 0x02010002FFFF#48)) .bufferNotAdmitted
      ∧ refuses (step (presenting idle2 0x020100000100#48)) .zeroCount
      ∧ refuses (step (presenting idle2 0x020000030100#48)) .badMask
      ∧ refuses (step (presenting idle2 0x020300030100#48)) .badMask
      ∧ refuses (step (presenting idle2 0x020300000100#48)) .zeroCount
      ∧ refuses (step (presenting idle2 0x020100030100#48)) .bufferNotAdmitted
      ∧ refuses (step (presenting idle2 0x030000000100#48)) .zeroCount
      ∧ refuses (step (presenting idle2 0x030055560000#48)) .bufferNotAdmitted
      ∧ refuses (step (presenting idle2 0x040040000004#48)) .bufferNotAdmitted := by decide +kernel

/-- The word of a table row placed right after reset is what the very next step runs. -/
theorem test_withFetchWord :
    gives (step (idle2.withFetchWord 48 0x010000000007)) { idle2 with resp := some 7#8, wave := [(0#8, 0#8)] } := by
  decide +kernel

/-- The directives of a program (R94): the write joins the idle cycle before the next command. -/
theorem test_hostMoves :
    hostMoves [.poke 0xFFFF#16 [1#8, 2#8], .command 0x010000000000#48, .idle 2, .setIe false]
      = [.idle [.poke 0xFFFF#16 1#8, .poke 0#16 2#8], .command 0x010000000000#48, .idle [], .idle [.setIe false]] := by
  decide

/-- R16, R90: the symbols of one byte and a hold of 560 cycles, for a family of 560 cycles; one cycle less is no `RESET`;
a bit period cut short has no symbol string. -/
theorem test_levelSymbols :
    levelSymbols cfg2 .rgb ([true, true, false, true, false, false] ++ List.replicate 560 false)
        = some [.sym1, .sym0, .reset]
      ∧ levelSymbols cfg2 .rgb ([true, true, false, true, false, false] ++ List.replicate 559 false)
        = some [.sym1, .sym0]
      ∧ levelSymbols cfg2 .rgb [false, true, true, false] = some [.sym1]
      ∧ levelSymbols cfg2 .rgb [true, true] = none ∧ levelSymbols cfg2 .rgb [true, true, true] = none := by
  decide +kernel

/-- R204 and R222 (log entry 25): 559 idle cycles after the frame of `SYM1` pay no idle time of 560 cycles, although the
line has been low for 560 cycles when the run ends; one more pays it. -/
theorem test_idle_time :
    { idle2 with wave := (List.replicate 2 (1#8, 1#8)) ++ List.replicate 560 (0#8, 1#8) }.idlePaid .rgb 0 = false
      ∧ { idle2 with wave := (List.replicate 2 (1#8, 1#8)) ++ List.replicate 560 (0#8, 1#8) }.latched .rgb 0 = true
      ∧ { idle2 with wave := (List.replicate 2 (1#8, 1#8)) ++ List.replicate 561 (0#8, 1#8) }.idlePaid .rgb 0 = true := by
  decide +kernel

/-- Log entry 31: after a high level of four cycles, which is no bit period of three, no idle time counts as paid,
while `latched` looks at the end of the wave only. -/
theorem test_idle_after_misshapen_level :
    { idle2 with wave := List.replicate 4 (1#8, 0#8) ++ List.replicate 600 (0#8, 0#8) }.idlePaid .rgb 0 = false
      ∧ { idle2 with wave := List.replicate 4 (1#8, 0#8) ++ List.replicate 600 (0#8, 0#8) }.latched .rgb 0 = true := by
  decide +kernel

/-- R203 (d) and U8 (log entry 30): a high bit of `PORT` on a pin that is still an input meets the first and not the
second; a high output meets neither. -/
theorem test_boot_premises :
    { idle2 with port := 1#8 }.bootReady 1#8 = true ∧ { idle2 with port := 1#8 }.pinLow 1#8 = false
      ∧ { idle2 with port := 1#8, ddr := 1#8 }.bootReady 1#8 = false ∧ idle2.pinLow 1#8 = true := by
  decide +kernel

/-- P5: the run of one `CORRECT` is over in the cycle after it; a run that is refused has no end. -/
theorem test_runEnd :
    (runOf 3 idle2 [.command 0x010000000007#48]).map State.wave = some [(0#8, 0#8)]
      ∧ (runOf 0 idle2 [.command 0x010000000007#48]) = none ∧ runOf 3 idle2 [.command 0#48] = none := by
  decide +kernel

/-- R81 at other widths: a port of 4 bits, addresses of 8 bits, counts of 4 bits make a word of 24 bits. -/
theorem test_other_widths :
    fieldsOf { port := 4, addr := 8, cnt := 4 } 0x02A5C3#24 = { op := 0x02#8, mask := 0xA#4, count := 0x5#4, addr := 0xC3#8 } := by
  decide

/-- V10: the report of a Fatal clock; at 1 MHz `t_zero` is one cycle of 1000 ns. -/
theorem test_report :
    { cfg2 with fClk := 1000000 }.report
        = some { name := "E_CLOCK_TOO_SLOW", code := 1, values := some (1000000, 1, 1000) }
      ∧ cfg2.report = some { name := "W_TIMING_MARGINAL", code := 2, values := none } ∧ cfg8.report = none := by
  decide +kernel

/-! ### The invariant on the three states -/

theorem idle2_inv : idle2.Inv :=
  ⟨by decide +kernel, by decide +kernel, (fun h => nomatch h), (fun h => nomatch h)⟩

theorem send2_inv : send2.Inv :=
  ⟨by decide +kernel, by decide +kernel,
    fun _ => ⟨by decide, rfl, by decide, by decide, by decide +kernel, .inl rfl, by decide +kernel⟩,
    (fun h => nomatch h)⟩

theorem hold2_inv : hold2.Inv :=
  ⟨by decide +kernel, by decide +kernel, (fun h => nomatch h),
    fun _ => ⟨by decide, by decide, by decide, by decide, by decide, by decide +kernel⟩⟩

/-! ### Witnesses: for each statement with hypotheses, a state and operands that meet them together -/

theorem witness_DecodingAnEncodedSymbolGivesItBack :
    encodeWire cfg2 .rgb .sym0 = some [true, false, false] ∧ encodeWire cfg2 .rgb .sym1 = some [true, true, false]
      ∧ encodeWire cfg8 .rgb .reset = some (List.replicate 400 false) ∧ cfg8.nReset .rgb ≤ 401 := by decide +kernel

theorem witness_ReservedOpcodesAreRefused :
    (presenting idle2 0x000000000000#48).presents 0x000000000000#48 idle2.sample
      ∧ (driven idle2 { rst := false, cmd := some 0x050000000000#48 }).presents 0x050000000000#48 idle2.sample
      ∧ opField 0x000000000000#48 = 0#8 ∧ opField 0x050000000000#48 = 5#8 := by decide +kernel

theorem witness_UnusedFieldsAreIgnored :
    opField 0x01FFFFFFFFA5#48 = opField 0x0100000000A5#48 ∧ opField 0x0100000000A5#48 = 1#8
      ∧ idxField 0x01FFFFFFFFA5#48 = idxField 0x0100000000A5#48
      ∧ opField 0x03FF00010100#48 = opField 0x030000010100#48 ∧ opField 0x030000010100#48 = 3#8
      ∧ countField 0x04FF00010100#48 = countField 0x040000010100#48 ∧ opField 0x040000010100#48 = 4#8
      ∧ addrField 0x04FF00010100#48 = addrField 0x040000010100#48 := by decide

theorem witness_CumulativeCountsAndClamps :
    cfg8.clampsW1 = false ∧ cfg8.clampsW2 = false ∧ cfg8.clampsW3 = false ∧ cfg8.defaultTimes
      ∧ { cfg2 with fClk := 1999999 }.clampsW3 = true ∧ { cfg2 with fClk := 2000000 }.clampsW3 = false
      ∧ { cfg2 with fClk := 2777778 }.clampsW3 = true ∧ { cfg2 with fClk := 2799999 }.clampsW3 = true
      ∧ { cfg2 with fClk := 2800000 }.clampsW3 = false ∧ { cfg2 with fClk := 1818182 }.clampsW2 = false
      ∧ { cfg2 with fClk := 1 }.clampsW1 = true := by decide

theorem witness_DiagnosticBandsOfTheDefaults :
    cfg2.defaultTimes ∧ cfg2.defaultThresholds ∧ { cfg2 with fClk := 2222222 }.diag = .advisory
      ∧ { cfg2 with fClk := 4285714 }.diag = .ok ∧ { cfg2 with fClk := 4285715 }.diag = .advisory
      ∧ { cfg2 with fClk := 4444444 }.diag = .advisory ∧ { cfg2 with fClk := 4444445 }.diag = .ok := by decide

theorem witness_HoldLengthsCoverTheIdleTime :
    b2.cfg.defaultTimes ∧ b2.cfg.defaultThresholds ∧ b2.cfg.nReset .rgb = 560 ∧ b8.cfg.nReset .rgb = 400
      ∧ { cfg2 with fClk := 1818182, tResetRgbUs := 50 }.nResetRgb = 91 := by decide

theorem witness_StepRunsThePresentedCommand :
    (presenting idle2 0x010000000007#48).presents 0x010000000007#48 idle2.sample
      ∧ decodeCommand 0x010000000007#48 = .ok (.correct 7#8)
      ∧ (driven idle2 { rst := false, cmd := some 0x010000000007#48 }).presents 0x010000000007#48 idle2.sample := by
  decide +kernel

theorem witness_StepRunsTheSymbolOnTheWire :
    send2.drive.rst = false ∧ send2.drive.cmd = none ∧ send2.st = .send ∧ send2.sr.msb = true
      ∧ { send2 with sr := 0x7F#8 }.sr.msb = false ∧ hold2.st = .hold ∧ hold2.drive.cmd = none := by decide +kernel

theorem witness_IdleCycleKeepsTheEngineRegisters :
    idle2.st = .idle ∧ idle2.drive.rst = false ∧ idle2.drive.cmd = none ∧ idle2.host = []
      ∧ { idle2 with host := [.idle [.setIe false, .setPort 1#8, .setDdr 1#8]] }.host ≠ []
      ∧ gives (step { idle2 with host := [.idle [.setIe false, .setPort 1#8, .setDdr 1#8]] })
          { idle2 with ie := false, port := 1#8, ddr := 1#8, wave := [(0#8, 0#8)] } := by decide +kernel

theorem witness_EveryStepAppendsOneSample :
    gives (step idle2) { idle2 with wave := [(0#8, 0#8)] } := by decide +kernel

theorem witness_OnlyCorrectDrivesTheResponse :
    gives (step (presenting idle2 0x010000000007#48)) { idle2 with resp := some 7#8, wave := [(0#8, 0#8)] } := by
  decide +kernel

theorem witness_ResetOfTheIdleEngineWritesNothing :
    (driven idle2 { rst := true, cmd := none }).drive.rst = true ∧ idle2.st = .idle ∧ idle2.host = []
      ∧ gives (step (driven (presenting idle2 0x010000000007#48) { rst := true, cmd := some 0#48 }))
          { idle2 with wave := [(0#8, 0#8)] }
      ∧ gives (step (driven { idle2 with host := [.idle [.setIe false]] } { rst := true, cmd := none }))
          { idle2 with ie := false, wave := [(0#8, 0#8)] } := by decide +kernel

theorem witness_BusyMachineRefusesCommandsAndReset :
    send2.busy = true ∧ hold2.busy = true ∧ (driven send2 { rst := true, cmd := some 0#48 }).drive.rst = true
      ∧ refuses (step (driven send2 { rst := true, cmd := some 0#48 })) .resetWhileBusy
      ∧ (driven hold2 { rst := false, cmd := some 0#48 }).drive.cmd = some 0#48
      ∧ refuses (step (driven hold2 { rst := false, cmd := some 0#48 })) .commandWhileBusy := by decide +kernel

theorem witness_BusyStepsTouchOnlyTheMaskedPins :
    { send2 with cyc := 1, port := 0x5B#8 }.busy = true
      ∧ gives (step { send2 with cyc := 1, port := 0x5B#8 })
          { send2 with cyc := 2, port := 0x5A#8, wave := [(0x5B#8, 1#8)] } := by decide +kernel

theorem witness_LeavingSendRestoresTheInterruptEnable :
    gives (step send2) { send2 with cyc := 1, wave := [(1#8, 1#8)] }
      ∧ gives (step { send2 with bitn := 0#3, cnt := 0#18, cyc := 2 })
          { send2 with st := .idle, bitn := 0#3, cnt := 0#18, cyc := 2, ie := true, wave := [(1#8, 1#8)] }
      ∧ gives (step hold2) { hold2 with rcnt := 559, wave := [(0#8, 1#8)] } := by decide +kernel

theorem witness_NoStepChangesTheBuild :
    gives (step idle8) { idle8 with wave := [(0#8, 0#8)] } := by decide +kernel

theorem witness_PositionAdvancesByOne :
    send2.st = .send ∧ send2.cnt.toNat < 2 ∧ gives (step send2) { send2 with cyc := 1, wave := [(1#8, 1#8)] }
      ∧ send2.position 2 = 0 ∧ { send2 with cnt := 0#18, bitn := 0#3, cyc := 2 }.position 2 = 47 := by decide +kernel

theorem witness_StepKeepsTheInvariant :
    idle2.Inv ∧ send2.Inv ∧ hold2.Inv ∧ gives (step send2) { send2 with cyc := 1, wave := [(1#8, 1#8)] } :=
  ⟨idle2_inv, send2_inv, hold2_inv, by decide +kernel⟩

theorem witness_AdmittedCommandsNeverFault :
    send2.Inv ∧ send2.busy = true ∧ send2.drive.rst = false ∧ send2.drive.cmd = none ∧ hold2.Inv
      ∧ hold2.busy = true :=
  ⟨send2_inv, rfl, rfl, rfl, hold2_inv, rfl⟩

theorem witness_EngineNeverWritesMemory :
    gives (exec .sym0 { send2 with sr := 0#8, bitn := 0#3, cyc := 2, port := 0#8 })
        { send2 with sr := 1#8, ptr := 2#16, cnt := 0#18, port := 1#8 }
      ∧ { idle2 with host := [.idle [.setIe false]] }.host = [.idle [.setIe false]]
      ∧ (∀ w ∈ [HostWrite.setIe false], w = .setIe false)
      ∧ gives (step { idle2 with host := [.idle [.setIe false]] })
        { idle2 with ie := false, wave := [(0#8, 0#8)] } := by decide +kernel

theorem witness_HostWriteIsSeenByLaterReads :
    { idle2 with host := [.idle [.poke 2#16 7#8]] }.drive.rst = false ∧ idle2.st = .idle ∧ idle2.mem.wf
      ∧ gives (step { idle2 with host := [.idle [.poke 2#16 7#8]] }) { idle2 with
            mem := [(0, 0x80#8), (1, 0x01#8), (2, 7#8), (3, 0x00#8), (65535, 0x00#8)], wave := [(0#8, 0#8)] } := by
  decide +kernel

theorem witness_LastHostWriteToAPlaceWins :
    idle2.st = .idle ∧ idle2.drive.rst = false ∧ idle2.drive.cmd = none
      ∧ gives (step { idle2 with host := [.idle [.setPort 1#8, .poke 4#16 9#8, .setIe false, .setDdr 2#8, .poke 4#16 8#8,
            .setPort 3#8]] })
        { idle2 with
          port := 3#8, ddr := 2#8, ie := false, wave := [(0#8, 0#8)]
          mem := [(0, 0x80#8), (1, 0x01#8), (2, 0xFF#8), (3, 0x00#8), (4, 8#8), (65535, 0x00#8)] } := by
  decide +kernel

theorem witness_DirectivesAreCarriedOut :
    idle2.st = .idle ∧ idle2.quietInputs ∧ (0xFFFE#16).toNat + [1#8, 2#8].length ≤ 65536
      ∧ gives (step { idle2 with host := hostMoves [.poke 0xFFFE#16 [1#8, 2#8]] })
        { idle2 with
          wave := [(0#8, 0#8)]
          mem := [(0, 0x80#8), (1, 0x01#8), (2, 0xFF#8), (3, 0x00#8), (65534, 1#8), (65535, 2#8)] } := by
  decide +kernel

theorem witness_FrameCyclesReadOnlyTheNextByte :
    { send2 with bitn := 0#3, cyc := 2 }.st = .send ∧ { send2 with bitn := 0#3, cyc := 2 }.cyc + 1 = b2.cfg.nTotal
      ∧ Memory.read [(1, 0x01#8)] 1 = idle2.mem.read 1
      ∧ gives (step { send2 with bitn := 0#3, cyc := 2 })
          { send2 with sr := 1#8, ptr := 2#16, cnt := 0#18, wave := [(1#8, 1#8)] } := by decide +kernel

theorem witness_CorrectAnswersTheTableEntry : State.reset.st = .idle ∧ idle2.st = .idle := by decide

theorem witness_CorrectFollowsTheTableLaws : idle8.st = .idle := by decide

theorem witness_IllegalCommandsAreRefusedInOrder :
    send2.busy = true ∧ hold2.busy = true
      ∧ (Instr.transmit 0#16 0#16 3#8).frameOperands cfg2
        = some { count := 0#16, addr := 0#16, bytes := 0, mask := 3#8, hold := 0 }
      ∧ (∀ p : Fin 8, (3#8 : Port) ≠ 1#8 <<< p.val) ∧ (∀ p : Fin 8, (0#8 : Port) ≠ 1#8 <<< p.val)
      ∧ (Instr.showRgb 0xFFFE#16 1#16).frameOperands cfg2
        = some { count := 1#16, addr := 0xFFFE#16, bytes := 3, mask := 1#8, hold := 560 }
      ∧ 65536 < (0xFFFE#16).toNat + 3 ∧ (∃ p : Fin 8, (1#8 : Port) = 1#8 <<< p.val)
      ∧ (Instr.showRgbw 1#16 1#16).frameOperands cfg2
        = some { count := 1#16, addr := 1#16, bytes := 4, mask := 1#8, hold := 560 }
      ∧ (1#16).toNat + 4 ≤ 65536 ∧ (∃ k < 4, idle2.mem.read ((1#16).toNat + k) = none) := by decide +kernel

theorem witness_AdmittedFrameCommandsAreAccepted :
    (Instr.transmit 0xFFFF#16 1#16 0x80#8).frameOperands cfg2
        = some { count := 1#16, addr := 0xFFFF#16, bytes := 1, mask := 0x80#8, hold := 0 }
      ∧ (∃ p : Fin 8, (0x80#8 : Port) = 1#8 <<< p.val) ∧ (0xFFFF#16).toNat + 1 ≤ 65536
      ∧ (∀ k < 1, (idle2.mem.read ((0xFFFF#16).toNat + k)).isSome = true)
      ∧ (Instr.showRgbw 0#16 1#16).frameOperands cfg2
        = some { count := 1#16, addr := 0#16, bytes := 4, mask := 1#8, hold := 560 }
      ∧ (∀ k < 4, (idle2.mem.read ((0#16).toNat + k)).isSome = true) ∧ idle2.st = .idle := by decide +kernel

theorem witness_FrameCommandsLeaveTheRestAlone :
    (Instr.showRgb 0#16 1#16).frameOperands b2.cfg
        = some { count := 1#16, addr := 0#16, bytes := 3, mask := 1#8, hold := 560 }
      ∧ gives (exec (.showRgb 0#16 1#16) { idle2 with port := 0x5A#8, ddr := 0x0F#8 }) { idle2 with
            st := .send, sr := 0x80#8, bitn := 7#3, ptr := 1#16, cnt := 2#18, mask := 1#8, holdn := 560
            ieSave := true, ie := false, port := 0x5B#8, ddr := 0x0F#8 } := by decide +kernel

theorem witness_IllFormedCommandsNeverRun :
    (Instr.transmit 0#16 1#16 0#8).wf = false ∧ (Instr.showRgbw 0xFFFE#16 1#16).wf = false := by decide

theorem witness_SymbolsCountTheirWindows :
    send2.st = .send ∧ send2.cyc + 1 < b2.cfg.nTotal ∧ send2.sr.msb = true
      ∧ { send2 with sr := 0x7F#8, cyc := 1 }.cyc + 1 < b2.cfg.nTotal ∧ (0x7F#8).msb = false := by decide +kernel

theorem witness_SymbolsEndABitInsideAByte :
    { send2 with cyc := 2, port := 0#8 }.cyc + 1 = b2.cfg.nTotal ∧ send2.bitn ≠ 0#3 ∧ send2.sr.msb = true
      ∧ gives (exec .sym1 { send2 with cyc := 2, port := 0#8 }) { send2 with sr := 0#8, bitn := 6#3 } := by
  decide +kernel

theorem witness_SymbolsLoadTheNextByte :
    { send2 with bitn := 0#3, cyc := 2 }.cyc + 1 = b2.cfg.nTotal ∧ send2.cnt ≠ 0#18
      ∧ send2.mem.read send2.ptr.toNat = some 1#8 ∧ send2.sr.msb = true ∧ (0x7F#8).msb = false := by decide +kernel

theorem witness_SymbolsEndTheFrame :
    { send2 with cyc := 2 }.cyc + 1 = b2.cfg.nTotal ∧ send2.st = .send ∧ send2.holdn = 0
      ∧ { send2 with holdn := 1 }.holdn ≠ 0 ∧ { send2 with bitn := 0#3, cnt := 0#18 }.cnt = 0#18 := by decide +kernel

theorem witness_ResetSymbolCountsTheHold :
    { hold2 with rcnt := 1 }.st = .hold ∧ { hold2 with rcnt := 1 }.rcnt = 1
      ∧ gives (exec .reset { hold2 with rcnt := 2 }) { hold2 with rcnt := 1 } ∧ gives (exec .reset idle2) idle2 := by
  decide +kernel

theorem witness_SymbolsLeaveTheRestAlone :
    Instr.reset.onWire = true ∧ gives (exec .reset hold2) { hold2 with rcnt := 559 }
      ∧ gives (exec .sym1 send2) { send2 with cyc := 1 } := by decide +kernel

theorem witness_SymbolsStopOffTheWire :
    refuses (exec .sym0 send2) .symbolNotOnWire ∧ refuses (exec .sym1 idle2) .symbolNotOnWire
      ∧ refuses (exec .reset send2) .symbolNotOnWire ∧ faults (exec .reset { hold2 with rcnt := 0 }) .rcntZero
      ∧ faults (exec .sym1 { send2 with cyc := 3 }) .cycOutOfRange
      ∧ faults (exec .sym1 { send2 with bitn := 0#3, cyc := 2, ptr := 0x0100#16 }) .byteNotInLaunchMemory := by
  decide +kernel

theorem witness_BitPeriodShowsTheSymbolShape :
    send2.Inv ∧ send2.quietInputs ∧ send2.st = .send ∧ send2.cyc = 0 ∧ 2 < send2.cfg.nTotal :=
  ⟨send2_inv, rfl, rfl, rfl, by decide⟩

theorem witness_FrameCommandsRunToTheirEndState :
    (presenting idle2 0x030000010000#48).host = [.command 0x030000010000#48]
      ∧ (presenting idle2 0x030000010000#48).quietInputs
      ∧ decodeCommand 0x030000010000#48 = .ok (.showRgb 0#16 1#16)
      ∧ (Instr.showRgb 0#16 1#16).frameOperands cfg2
        = some { count := 1#16, addr := 0#16, bytes := 3, mask := 1#8, hold := 560 }
      ∧ (∃ p : Fin 8, (1#8 : Port) = 1#8 <<< p.val)
      ∧ idle2.mem.bytes 0 3 = some [0x80#8, 0x01#8, 0xFF#8] := by decide +kernel

theorem witness_FrameCommandsPutTheirSymbolsOnThePin :
    (presenting idle2 0x030000010000#48).quietInputs ∧ (presenting idle2 0x030000010000#48).st = .idle
      ∧ decodeCommand 0x030000010000#48 = .ok (.showRgb 0#16 1#16)
      ∧ (Instr.showRgb 0#16 1#16).frameOperands cfg2
        = some { count := 1#16, addr := 0#16, bytes := 3, mask := 1#8 <<< (0 : Fin 8).val, hold := 560 }
      ∧ cfg2.nReset .rgb ≤ 560 ∧ idle2.mem.bytes 0 3 = some [0x80#8, 0x01#8, 0xFF#8] := by decide +kernel

theorem witness_RunsEndInTheFirstCycleTheyAreOver :
    runEnd 3 idle2 = some idle2 ∧ (presenting idle2 0x010000000007#48).runOver = false
      ∧ runEnd 1 (presenting idle2 0x010000000007#48)
        = some { idle2 with resp := some 7#8, wave := [(0#8, 0#8)] } := by decide +kernel

theorem witness_EveryRunIsOverOrRefused :
    idle2.Inv ∧ idle2.quietInputs ∧ refuses (steps 1 (presenting idle2 0#48)) (.reservedOpcode 0#8)
      ∧ (runEnd 1 (presenting idle2 0x010000000007#48)).isSome = true
      ∧ (runEnd 1 { presenting idle2 0x010000000007#48 with ie := false, mem := [] }).isSome = true :=
  ⟨idle2_inv, rfl, by decide +kernel, by decide +kernel, by decide +kernel⟩

theorem witness_InterruptsAreOffExactlyDuringTheFrame :
    (∀ k < 3, (idle2.mem.read ((0#16).toNat + k)).isSome = true) ∧ 1 ≤ 8 * 3 * cfg2.nTotal + 560
      ∧ (presenting idle2 0x030000010000#48).st = .idle := by decide +kernel

theorem witness_CommandsCarryNoHiddenState :
    idle2.st = .idle ∧ { idle2 with sr := 0x55#8, rcnt := 9, cyc := 7 }.st = .idle
      ∧ idle2.agreesOutside { idle2 with sr := 0x55#8, rcnt := 9, cyc := 7 } := by decide +kernel

theorem witness_EveryCommandEndsAfterItsCycles :
    send2.Inv ∧ send2.quietInputs ∧ send2.busy = true ∧ send2.remaining = 48 ∧ hold2.remaining = 560 :=
  ⟨send2_inv, rfl, rfl, by decide, by decide⟩

end Sys2Proof.Tests
end

/-! ### Level strings -/

namespace Sys2Proof

/-- A bit period is not empty. -/
theorem Config.nTotal_pos (c : Config) : 0 < c.nTotal := Nat.zero_lt_of_lt (c.highCycles_lt false)

/-- The high phase of a 0 ends before that of a 1. -/
theorem Config.highCycles_le_nOne (c : Config) (b : Bool) : c.highCycles b ≤ c.nOne := by
  cases b <;> simp [Config.highCycles, Config.nOne, Config.nZero]

/-- Each bit has a period of `N_TOTAL` levels. -/
theorem length_flatMap_symLevels (c : Config) (bits : List Bool) :
    (bits.flatMap (symLevels c)).length = bits.length * c.nTotal := by
  simp [List.length_flatMap]

/-- The level of cycle `j` of a symbol (R89). -/
theorem symLevels_take_succ (c : Config) (b : Bool) {j : Nat} (h : j < c.nTotal) :
    (symLevels c b).take (j + 1) = (symLevels c b).take j ++ [decide (j < c.highCycles b)] := by
  rw [List.take_succ_eq_append_getElem (by simpa using h)]
  congr 2
  simp only [symLevels, List.getElem_append, List.length_replicate, List.getElem_replicate]
  split <;> simp [*]

/-- Bit `k` of a byte in the order of R88 is the top bit after `k` shifts (R134). -/
theorem sendOrder_take_succ (b : Byte) {k : Nat} (hk : k < 8) :
    (sendOrder b).take (k + 1) = (sendOrder b).take k ++ [(b <<< k).msb] := by
  have hlen : (sendOrder b).length = 8 := rfl
  rw [List.take_succ_eq_append_getElem (hk.trans_eq hlen.symm)]
  congr 2
  interval_cases k <;> simp [sendOrder, BitVec.msb_eq_getLsbD_last]

end Sys2Proof

/-! ### The symbol string of a frame's levels -/

namespace Sys2Proof.Machine

/-- A low time of `k` cycles reads as a `RESET` if it lasts for `N_RESET` cycles, as no symbol otherwise (R90). -/
theorem symbolString_replicate_false (c : Config) (f : Family) {fuel k : Nat} (h : k ≤ fuel) :
    symbolString c f fuel (List.replicate k false) = some (if 0 < k ∧ c.nReset f ≤ k then [.reset] else []) := by
  have hnil : ∀ fuel, symbolString c f fuel [] = some [] := fun fuel => by cases fuel <;> rfl
  cases k with
  | zero => simp [hnil]
  | succ k =>
    obtain ⟨fuel, rfl⟩ : ∃ n, fuel = n + 1 := ⟨fuel - 1, by omega⟩
    have hdrop : (List.replicate k false).dropWhile (fun l => !l) = [] := by simp
    have htake : (List.replicate k false).takeWhile (fun l => !l) = List.replicate k false := by simp
    by_cases hk : c.nReset f ≤ k + 1 <;> simp [List.replicate_succ, symbolString, hdrop, htake, hnil, hk]

/-- A bit period at the front reads as its bit's symbol (R87 to R89). -/
theorem symbolString_symLevels_append (c : Config) (f : Family) (fuel : Nat) (b : Bool) (rest : List Bool) :
    symbolString c f (fuel + 1) (symLevels c b ++ rest)
      = (symbolString c f fuel rest).map (bitSymbol b :: ·) := by
  obtain ⟨low, hcons⟩ := symLevels_cons c b
  have htake : (true :: (low ++ rest)).take c.nTotal = symLevels c b := by
    rw [← List.cons_append, ← hcons, List.take_left' (symLevels_length c b)]
  have hdrop : (true :: (low ++ rest)).drop c.nTotal = rest := by
    rw [← List.cons_append, ← hcons, List.drop_left' (symLevels_length c b)]
  rw [hcons, List.cons_append, symbolString, htake, hdrop]
  cases b
  · simp [bitSymbol]
  · simp [bitSymbol, symLevels_ne]

/-- The periods of a list of bits, then a low time, read as the bits' symbols and the low time's. One unit of fuel for
each bit and each low cycle is enough. -/
theorem symbolString_flatMap_symLevels (c : Config) (f : Family) (bits : List Bool) {fuel k : Nat}
    (h : bits.length + k ≤ fuel) :
    symbolString c f fuel (bits.flatMap (symLevels c) ++ List.replicate k false)
      = some (bits.map bitSymbol ++ if 0 < k ∧ c.nReset f ≤ k then [.reset] else []) := by
  induction bits generalizing fuel with
  | nil => simpa using symbolString_replicate_false c f (by simpa using h)
  | cons b bits ih =>
    rw [List.length_cons] at h
    obtain ⟨fuel, rfl⟩ : ∃ n, fuel = n + 1 := ⟨fuel - 1, by omega⟩
    rw [List.flatMap_cons, List.append_assoc, symbolString_symLevels_append, ih (by omega)]
    rfl

/-- Settles O4: the level string has a level, hence fuel, for each bit and each low cycle. -/
theorem frameLevelsReadBackAsTheFrameBits : Obligations.FrameLevelsReadBackAsTheFrameBits := by
  intro c f bytes k
  refine symbolString_flatMap_symLevels c f (frameBits c bytes) ?_
  have hbits := Nat.le_mul_of_pos_right (frameBits c bytes).length c.nTotal_pos
  rw [List.length_append, frameLevels, length_flatMap_symLevels, List.length_replicate]
  omega

/-! ### What a busy cycle leaves alone -/

/-- What no cycle of a wire symbol writes: what acceptance latched, `DDR`, the pins outside `MASK`, memory, and the
model's own fields (R32, R33, R61). -/
structure SymbolFrame (s t : State) : Prop where
  mask : t.mask = s.mask := by rfl
  holdn : t.holdn = s.holdn := by rfl
  ieSave : t.ieSave = s.ieSave := by rfl
  ddr : t.ddr = s.ddr := by rfl
  unmaskedPins : t.port &&& ~~~s.mask = s.port &&& ~~~s.mask := by rfl
  mem : t.mem = s.mem := by rfl
  resp : t.resp = s.resp := by rfl
  wave : t.wave = s.wave := by rfl
  build : t.build = s.build := by rfl
  host : t.host = s.host := by rfl
  outside : t.outside = s.outside := by rfl

/-- Setting the bits of a mask leaves the bits outside it alone. -/
theorem or_and_not_self {n : Nat} (p m : BitVec n) : (p ||| m) &&& ~~~m = p &&& ~~~m := by
  ext i hi
  cases h : m[i] <;> simp [h]

/-- Clearing the bits of a mask leaves the bits outside it alone. -/
theorem and_not_and_not_self {n : Nat} (p m : BitVec n) : p &&& ~~~m &&& ~~~m = p &&& ~~~m := by
  rw [BitVec.and_assoc, BitVec.and_self]

/-- A `SEND` cycle writes `PORT` only through `MASK` (R133 to R136). -/
theorem sendCycle_frame {b : Bool} {s t : State} (e : sendCycle b s = .next t) : SymbolFrame s t := by
  obtain ⟨-, rfl⟩ | ⟨-, -, rfl⟩ | ⟨-, -, -, byte, -, rfl⟩ | ⟨-, -, -, rfl⟩ := sendCycle_next.1 e
  case inl =>
    refine { unmaskedPins := ?_ }
    rw [State.insideBit_port]
    split
    · exact and_not_and_not_self s.port s.mask
    · rfl
  case inr.inl => exact { unmaskedPins := or_and_not_self s.port s.mask }
  case inr.inr.inl => exact { unmaskedPins := or_and_not_self s.port s.mask }
  case inr.inr.inr => exact {}

/-- A `HOLD` cycle writes no pin (R137). -/
theorem holdCycle_frame {s t : State} (e : holdCycle s = .next t) : SymbolFrame s t := by
  obtain ⟨-, rfl⟩ := holdCycle_next.1 e
  exact {}

/-- A busy step is a cycle of a wire symbol in the sampled state. -/
theorem step_busy_frame {s t : State} (hb : s.busy = true) (e : step s = .next t) : SymbolFrame s.sample t := by
  have hne : s.st ≠ .idle := fun hi => by simp [State.busy_eq_false.2 hi] at hb
  obtain ⟨_, _, _, ⟨hi, -⟩, -⟩ | ⟨hi, -⟩ | ⟨-, -, -, h⟩ | ⟨-, -, -, h⟩ := step_next e
  · exact absurd hi hne
  · exact absurd hi hne
  · exact sendCycle_frame h
  · exact holdCycle_frame h

/-- Settles O19: the frame of the wire symbols, carried to a step. -/
theorem busyStepsTouchOnlyTheMaskedPins : Obligations.BusyStepsTouchOnlyTheMaskedPins := by
  intro s t hb e
  have h := step_busy_frame hb e
  exact ⟨h.host, h.mem, h.ddr, h.unmaskedPins, h.mask, h.holdn, h.ieSave, h.resp⟩

/-! ### The observation -/

/-- No instruction writes `WAVE`. -/
theorem exec_wave {i : Instr} {s t : State} (e : exec i s = .next t) : t.wave = s.wave := by
  obtain ⟨_, -, -, rfl⟩ | ⟨-, -, _, _, _, _, _, -, -, -, -, -, rfl⟩ | ⟨-, -, h⟩ | ⟨-, -, -, rfl⟩
    | ⟨-, -, rfl⟩ := exec_next e
  case inr.inr.inl => exact (sendCycle_frame h).wave
  all_goals rfl

/-- A command is executed in a state whose `WAVE` has the cycle's sample. -/
theorem State.presents_wave {s u : State} {w : CommandWord} (h : s.presents w u) :
    u.wave = s.wave ++ [(s.port, s.ddr)] := by
  obtain ⟨-, -, ⟨-, rfl⟩ | ⟨-, -, rfl⟩⟩ := h <;> rfl

/-- Settles O15: the cycle is sampled once, and neither an instruction nor a host write touches `WAVE`. -/
theorem everyStepAppendsOneSample : Obligations.EveryStepAppendsOneSample := by
  intro s t e
  obtain ⟨w, i, u, hp, -, h⟩ | ⟨-, rest, ws, rfl⟩ | ⟨-, -, -, h⟩ | ⟨-, -, -, h⟩ := step_next e
  · rw [exec_wave h, State.presents_wave hp]
  · rw [State.hostWrites_wave]
    rfl
  · exact (sendCycle_frame h).wave
  · exact (holdCycle_frame h).wave

/-! ### One bit period -/

/-- One step more, at the end. -/
theorem steps_succ_end {k : Nat} {s t : State} (h : steps k s = .next t) : steps (k + 1) s = step t := by
  rw [steps_add_of_next h]
  unfold steps
  cases step t <;> rfl

/-- A `SEND` cycle while no other agent drives the inputs. -/
theorem step_send_quiet {s : State} (h : s.st = .send) (hq : s.quietInputs) :
    step s = sendCycle s.sr.msb s.sample := by
  have hd := State.quietInputs_drive hq
  exact step_send h (by rw [hd]) (by rw [hd])

theorem frameSamples_append (p d m : Port) (l₁ l₂ : List Bool) :
    frameSamples p d m (l₁ ++ l₂) = frameSamples p d m l₁ ++ frameSamples p d m l₂ :=
  List.map_append

/-- The first cycle of a bit, with quiet inputs: the masked pins are high and are outputs. -/
structure State.AtBit (s : State) : Prop where
  st : s.st = .send
  cyc : s.cyc = 0
  high : s.port ||| s.mask = s.port
  output : s.ddr ||| s.mask = s.ddr
  resp : s.resp = none
  quiet : s.quietInputs

/-- Driving the bits of a mask high after clearing them. -/
theorem and_not_or_self {n : Nat} (p m : BitVec n) : p &&& ~~~m ||| m = p ||| m := by
  ext i hi
  cases h : m[i] <;> simp [h]

/-- Pins that fall and rise again are as they were at the beginning of the bit. -/
theorem State.AtBit.port_rise {s : State} (h : s.AtBit) : s.port &&& ~~~s.mask ||| s.mask = s.port :=
  (and_not_or_self s.port s.mask).trans h.high

/-- Cycle `j` of the bit that begins in `s`: high for the first `H` cycles (R89, R139). -/
def State.bitCycle (s : State) (j : Nat) : State :=
  { s with
    cyc := j
    port := if j < s.cfg.highCycles s.sr.msb then s.port else s.port &&& ~~~s.mask
    wave := s.wave ++ frameSamples s.port s.ddr s.mask ((symLevels s.cfg s.sr.msb).take j) }

theorem State.bitCycle_port_high {s : State} {j : Nat} (h : j < s.cfg.highCycles s.sr.msb) :
    (s.bitCycle j).port = s.port := if_pos h

theorem State.bitCycle_port_low {s : State} {j : Nat} (h : s.cfg.highCycles s.sr.msb ≤ j) :
    (s.bitCycle j).port = s.port &&& ~~~s.mask := if_neg (Nat.not_lt.2 h)

/-- Sampling cycle `j` of a bit appends the sample of its level. -/
theorem State.AtBit.sample_bitCycle {s : State} (h : s.AtBit) {j : Nat} (hj : j < s.cfg.nTotal) :
    (s.bitCycle j).sample = { s.bitCycle j with
      wave := s.wave ++ frameSamples s.port s.ddr s.mask ((symLevels s.cfg s.sr.msb).take (j + 1)) } := by
  have hlevel : [((s.bitCycle j).port, (s.bitCycle j).ddr)]
      = frameSamples s.port s.ddr s.mask [decide (j < s.cfg.highCycles s.sr.msb)] := by
    simp [frameSamples, State.bitCycle, h.high, h.output]
  have hquiet : s.outside.tail = s.outside := by rw [h.quiet]; rfl
  rw [symLevels_take_succ _ _ hj, frameSamples_append, ← List.append_assoc, ← hlevel]
  simp only [State.sample, State.bitCycle, hquiet, ← h.resp]

/-- The pin falls at the end of the symbol's high phase, and (again, in a bit of value 0) at the end of `W2`. -/
theorem State.falls_eq_true {s : State} {b : Bool} :
    s.falls b = true ↔ s.cyc + 1 = s.cfg.highCycles b ∨ s.cyc + 1 = s.cfg.nOne := by
  cases b <;> simp [State.falls, Config.highCycles]

/-- The windows of R133 keep the level law of R139. -/
theorem State.insideBit_bitCycle_port (s : State) (j : Nat) :
    ((s.bitCycle j).insideBit s.sr.msb).port = (s.bitCycle (j + 1)).port := by
  have hle := Config.highCycles_le_nOne s.cfg s.sr.msb
  have hmask : (s.bitCycle j).mask = s.mask := rfl
  have hfalls : (s.bitCycle j).falls s.sr.msb = true
      ↔ j + 1 = s.cfg.highCycles s.sr.msb ∨ j + 1 = s.cfg.nOne := State.falls_eq_true
  rw [State.insideBit_port, hmask]
  rcases Nat.lt_trichotomy (j + 1) (s.cfg.highCycles s.sr.msb) with h | h | h
  · rw [if_neg (by rw [hfalls]; omega), State.bitCycle_port_high (by omega), State.bitCycle_port_high h]
  · rw [if_pos (hfalls.2 (.inl h)), State.bitCycle_port_high (by omega), State.bitCycle_port_low (by omega)]
  · rw [State.bitCycle_port_low (j := j) (by omega), State.bitCycle_port_low (by omega), and_not_and_not_self,
      ite_self]

/-- The step of any cycle of a bit but the last (R133). -/
theorem State.AtBit.step_bitCycle {s : State} (h : s.AtBit) {j : Nat} (hj : j + 1 < s.cfg.nTotal) :
    step (s.bitCycle j) = .next (s.bitCycle (j + 1)) := by
  have hport := s.insideBit_bitCycle_port j
  rw [State.insideBit_port] at hport
  rw [step_send_quiet (s := s.bitCycle j) h.st h.quiet, h.sample_bitCycle (Nat.lt_of_succ_lt hj)]
  refine sendCycle_next.2 (.inl ⟨hj, ?_⟩)
  exact congrArg (fun p => { s.bitCycle (j + 1) with port := p }) hport.symm

/-- A bit runs through its cycles. -/
theorem State.AtBit.steps_bitCycle {s : State} (h : s.AtBit) {j : Nat} (hj : j < s.cfg.nTotal) :
    steps j s = .next (s.bitCycle j) := by
  induction j with
  | zero =>
    have hhigh : 0 < s.cfg.highCycles s.sr.msb := s.cfg.highCycles_pos _
    have hcyc : { s with cyc := 0 } = s := by rw [← h.cyc]
    simp only [steps, State.bitCycle, if_pos hhigh, List.take_zero, frameSamples, List.map_nil, List.append_nil, hcyc]
  | succ j ih => rw [steps_succ_end (ih (Nat.lt_of_succ_lt hj)), h.step_bitCycle hj]

/-- The last cycle of a bit, sampled: the pin is low. -/
def State.bitEnd (s : State) : State :=
  { s with
    cyc := s.cfg.nTotal - 1
    port := s.port &&& ~~~s.mask
    wave := s.wave ++ frameSamples s.port s.ddr s.mask (symLevels s.cfg s.sr.msb) }

/-- A whole bit period, up to the register writes of its last step (R134 to R136). -/
theorem State.AtBit.steps_nTotal {s : State} (h : s.AtBit) :
    steps s.cfg.nTotal s = sendCycle s.sr.msb s.bitEnd := by
  have hlow := s.cfg.highCycles_lt s.sr.msb
  obtain ⟨j, hj⟩ : ∃ j, s.cfg.nTotal = j + 1 := ⟨s.cfg.nTotal - 1, by omega⟩
  have hend : (s.bitCycle j).sample = s.bitEnd := by
    rw [h.sample_bitCycle (by omega), ← hj, List.take_of_length_le (by simp)]
    have hport : (s.bitCycle j).port = s.port &&& ~~~s.mask := State.bitCycle_port_low (by omega)
    have hcyc : (s.bitCycle j).cyc = s.cfg.nTotal - 1 := by rw [hj]; rfl
    rw [State.bitEnd, ← hport, ← hcyc]
    rfl
  rw [hj, steps_succ_end (h.steps_bitCycle (by omega)),
    step_send_quiet (s := s.bitCycle j) h.st h.quiet, hend]
  rfl

/-! ### The bits of a byte -/

/-- The first cycle of bit `k` of the byte that begins in `s`. -/
def State.byteBit (s : State) (k : Nat) : State :=
  { s with
    sr := s.sr <<< k
    bitn := s.bitn - BitVec.ofNat 3 k
    wave := s.wave ++ frameSamples s.port s.ddr s.mask (((sendOrder s.sr).take k).flatMap (symLevels s.cfg)) }

theorem State.AtBit.byteBit {s : State} (h : s.AtBit) (k : Nat) : (s.byteBit k).AtBit :=
  ⟨h.st, h.cyc, h.high, h.output, h.resp, h.quiet⟩

/-- The samples of a byte's first `k + 1` bits are those of the first `k` and of bit `k`. -/
theorem State.bitEnd_byteBit_wave (s : State) {k : Nat} (hk : k < 8) :
    (s.byteBit k).bitEnd.wave = s.wave ++ frameSamples s.port s.ddr s.mask
      (((sendOrder s.sr).take (k + 1)).flatMap (symLevels s.cfg)) := by
  rw [sendOrder_take_succ s.sr hk, List.flatMap_append, frameSamples_append, ← List.append_assoc,
    List.flatMap_singleton]
  rfl

/-- The end of bit `k` is the beginning of bit `k + 1` (R134). -/
theorem State.AtBit.nextBit_byteBit {s : State} (h : s.AtBit) {k : Nat} (hk : k < 8) :
    (s.byteBit k).bitEnd.nextBit = s.byteBit (k + 1) := by
  have hsr : s.sr <<< k <<< 1 = s.sr <<< (k + 1) := (BitVec.shiftLeft_add _ _ _).symm
  have hbitn : s.bitn - BitVec.ofNat 3 k - 1#3 = s.bitn - BitVec.ofNat 3 (k + 1) := by
    rw [BitVec.ofNat_add, BitVec.sub_sub]
  have hwave := s.bitEnd_byteBit_wave hk
  simp only [State.nextBit, State.driveHigh, hwave]
  simp only [State.bitEnd, State.byteBit, hsr, hbitn, h.port_rise, h.cyc]

/-- A byte runs through its bits (R134). -/
theorem State.AtBit.steps_byteBit {s : State} (h : s.AtBit) (hb : s.bitn = 7#3) {k : Nat} (hk : k ≤ 7) :
    steps (k * s.cfg.nTotal) s = .next (s.byteBit k) := by
  induction k with
  | zero =>
    simp only [Nat.zero_mul, steps, State.byteBit, BitVec.shiftLeft_zero, BitVec.sub_zero, List.take_zero,
      List.flatMap_nil, frameSamples, List.map_nil, List.append_nil]
  | succ k ih =>
    have hperiod : (s.byteBit k).bitEnd.cyc + 1 = s.cfg.nTotal := Nat.sub_add_cancel s.cfg.nTotal_pos
    have hmore : (s.byteBit k).bitEnd.bitn ≠ 0#3 := by
      show s.bitn - BitVec.ofNat 3 k ≠ 0#3
      rw [hb]
      bv_omega
    have hbit := (h.byteBit k).steps_nTotal
    rw [Nat.succ_mul, steps_add_of_next (ih (by omega))]
    rw [sendCycle_next.2 (.inr (.inl ⟨hperiod, hmore, rfl⟩)), h.nextBit_byteBit (by omega)] at hbit
    exact hbit

/-- The last cycle of a byte, sampled. -/
def State.byteEnd (s : State) : State :=
  { s with
    sr := s.sr <<< 7
    bitn := 0#3
    cyc := s.cfg.nTotal - 1
    port := s.port &&& ~~~s.mask
    wave := s.wave ++ frameSamples s.port s.ddr s.mask ((sendOrder s.sr).flatMap (symLevels s.cfg)) }

/-- A whole byte, up to the register writes of its last step (R135, R136). -/
theorem State.AtBit.steps_byte {s : State} (h : s.AtBit) (hb : s.bitn = 7#3) :
    steps (8 * s.cfg.nTotal) s = sendCycle (s.sr <<< 7).msb s.byteEnd := by
  have hbit := (h.byteBit 7).steps_nTotal
  have hwave : (s.byteBit 7).bitEnd.wave
      = s.wave ++ frameSamples s.port s.ddr s.mask ((sendOrder s.sr).flatMap (symLevels s.cfg)) :=
    s.bitEnd_byteBit_wave (by omega)
  have hbitn : (s.byteBit 7).bitEnd.bitn = 0#3 := by
    show s.bitn - 7#3 = 0#3
    rw [hb]
    rfl
  have hend : s.byteEnd = (s.byteBit 7).bitEnd := by
    rw [State.byteEnd, ← hbitn, ← hwave]
    rfl
  rw [Nat.succ_mul, steps_add_of_next (h.steps_byteBit hb (Nat.le_refl 7)), hend]
  exact hbit

/-! ### The bytes of a frame -/

/-- The bytes of a buffer are read one by one. -/
theorem Memory.bytes_cons {m : Memory} {a n : Nat} {b : Byte} {bytes : List Byte} :
    m.bytes a (n + 1) = some (b :: bytes) ↔ m.read a = some b ∧ m.bytes (a + 1) n = some bytes := by
  simp only [Memory.bytes]
  cases m.read a with
  | none => simp
  | some b' => cases m.bytes (a + 1) n <;> simp

theorem Memory.length_of_bytes {m : Memory} {a n : Nat} {bytes : List Byte} (h : m.bytes a n = some bytes) :
    bytes.length = n := by
  induction n generalizing a bytes with
  | zero => cases h; rfl
  | succ n ih =>
    cases bytes with
    | nil => unfold Memory.bytes at h; split at h <;> cases h
    | cons b bytes => rw [List.length_cons, ih (Memory.bytes_cons.1 h).2]

/-- Every address of a buffer that can be read has a byte. -/
theorem Memory.read_of_bytes {m : Memory} {a n : Nat} {bytes : List Byte} (h : m.bytes a n = some bytes) {i : Nat}
    (hi : i < n) : ∃ b, m.read (a + i) = some b := by
  induction n generalizing a bytes i with
  | zero => omega
  | succ n ih =>
    cases bytes with
    | nil => cases Memory.length_of_bytes h
    | cons b bytes =>
      obtain ⟨hread, hrest⟩ := Memory.bytes_cons.1 h
      cases i with
      | zero => exact ⟨b, hread⟩
      | succ i =>
        obtain ⟨b', hb'⟩ := ih hrest (Nat.lt_of_succ_lt_succ hi)
        exact ⟨b', by rwa [Nat.add_right_comm] at hb'⟩

/-- The rest of a buffer that does not wrap, at the post-incremented pointer (R135). -/
theorem Memory.bytes_tail {m : Memory} {p : Addr} {b : Byte} {bytes : List Byte}
    (hfits : p.toNat + (b :: bytes).length ≤ 65536)
    (h : m.bytes p.toNat (b :: bytes).length = some (b :: bytes)) :
    (p + 1#16).toNat + bytes.length ≤ 65536 ∧ m.bytes (p + 1#16).toNat bytes.length = some bytes := by
  rw [List.length_cons] at hfits
  refine ⟨by bv_omega, ?_⟩
  obtain ⟨-, hrest⟩ := Memory.bytes_cons.1 h
  cases bytes with
  | nil => rfl
  | cons b' bytes =>
    have hptr : (p + 1#16).toNat = p.toNat + 1 := by
      rw [List.length_cons] at hfits
      bv_omega
    rw [hptr, hrest]

/-- The first cycle of a byte, with `bytes` still to be read from a buffer that does not wrap. -/
structure State.AtByte (s : State) (bytes : List Byte) : Prop extends s.AtBit where
  bitn : s.bitn = 7#3
  cnt : s.cnt = BitVec.ofNat 18 bytes.length
  fits : s.ptr.toNat + bytes.length ≤ 65536
  buffer : s.mem.bytes s.ptr.toNat bytes.length = some bytes

/-- The last cycle of a frame, sampled, with `bytes` still to be read in `s`. -/
def State.frameEnd (s : State) (bytes : List Byte) : State :=
  { s with
    sr := (bytes.map s.cfg.dimAt).getLastD s.sr <<< 7
    bitn := 0#3
    cyc := s.cfg.nTotal - 1
    ptr := BitVec.ofNat 16 (s.ptr.toNat + bytes.length)
    cnt := 0#18
    port := s.port &&& ~~~s.mask
    wave := s.wave ++ frameSamples s.port s.ddr s.mask
      ((sendOrder s.sr ++ frameBits s.cfg bytes).flatMap (symLevels s.cfg)) }

/-- The end of a byte with more to come is the beginning of the next one (R135). -/
theorem State.AtByte.nextByte {s : State} {b : Byte} {bytes : List Byte} (h : s.AtByte (b :: bytes)) :
    (s.byteEnd.nextByte b).AtByte bytes := by
  have hcnt : s.cnt - 1#18 = BitVec.ofNat 18 bytes.length := by
    rw [h.cnt, List.length_cons, BitVec.ofNat_add, BitVec.add_sub_cancel]
  obtain ⟨hfits, hbuffer⟩ := Memory.bytes_tail h.fits h.buffer
  have hhigh := (congrArg (· ||| s.mask) h.port_rise).trans (h.high.trans h.port_rise.symm)
  exact ⟨⟨h.st, rfl, hhigh, h.output, h.resp, h.quiet⟩, rfl, hcnt, hfits, hbuffer⟩

/-- The pointer after a frame, modulo `2^16`, is the same seen from the next byte. -/
theorem ofNat_succ_toNat_add (p : Addr) (n : Nat) :
    BitVec.ofNat 16 ((p + 1#16).toNat + n) = BitVec.ofNat 16 (p.toNat + (n + 1)) := by
  apply BitVec.eq_of_toNat_eq
  simp only [BitVec.toNat_ofNat, BitVec.toNat_add]
  omega

/-- What is left of the frame is the same, seen from the next byte. -/
theorem State.AtByte.frameEnd_nextByte {s : State} {b : Byte} {bytes : List Byte} (h : s.AtByte (b :: bytes)) :
    (s.byteEnd.nextByte b).frameEnd bytes = s.frameEnd (b :: bytes) := by
  simp only [State.frameEnd, State.nextByte, State.driveHigh, State.byteEnd, h.port_rise, ofNat_succ_toNat_add,
    List.map_cons, List.getLastD_cons, List.length_cons, frameBits, List.flatMap_cons, List.flatMap_append,
    frameSamples_append, List.append_assoc]

theorem State.byteEnd_cyc (s : State) : s.byteEnd.cyc + 1 = s.cfg.nTotal := Nat.sub_add_cancel s.cfg.nTotal_pos

/-- A frame runs through its bytes (R135, R136). -/
theorem State.AtByte.steps_frame {s : State} {bytes : List Byte} (h : s.AtByte bytes) :
    steps (8 * (bytes.length + 1) * s.cfg.nTotal) s = .next (s.frameEnd bytes).endFrame := by
  induction bytes generalizing s with
  | nil =>
    have hlast : s.byteEnd = s.frameEnd [] := by
      have hcnt : s.cnt = 0#18 := h.cnt
      simp only [State.byteEnd, State.frameEnd, frameBits, List.flatMap_nil, List.append_nil, List.map_nil,
        List.getLastD_nil, List.length_nil, Nat.add_zero, BitVec.ofNat_toNat, BitVec.setWidth_eq, hcnt]
    have hend := sendCycle_next (b := (s.sr <<< 7).msb).2 (.inr (.inr (.inr ⟨s.byteEnd_cyc, rfl, h.cnt, rfl⟩)))
    rw [← hlast, ← hend]
    exact h.steps_byte h.bitn
  | cons b bytes ih =>
    obtain ⟨hread, -⟩ := Memory.bytes_cons.1 h.buffer
    have hmore : s.cnt ≠ 0#18 := by
      have := h.fits
      rw [h.cnt]
      rw [List.length_cons] at this ⊢
      bv_omega
    have hnext := sendCycle_next (b := (s.sr <<< 7).msb).2
      (.inr (.inr (.inl ⟨s.byteEnd_cyc, rfl, hmore, b, hread, rfl⟩)))
    have hbyte := (h.steps_byte h.bitn).trans hnext
    rw [List.length_cons, show 8 * (bytes.length + 1 + 1) * s.cfg.nTotal
      = 8 * s.cfg.nTotal + 8 * (bytes.length + 1) * s.cfg.nTotal by ring, steps_add_of_next hbyte,
      ← h.frameEnd_nextByte]
    exact ih h.nextByte

/-! ### The hold -/

/-- A `HOLD` cycle with quiet inputs (R137). -/
theorem step_hold_next {s : State} {k : Nat} (hst : s.st = .hold) (hr : s.rcnt = k + 1) (hresp : s.resp = none)
    (hq : s.quietInputs) :
    step s = .next { s with
      st := if k = 0 then .idle else .hold, rcnt := k, wave := s.wave ++ [(s.port, s.ddr)] } := by
  have hd := State.quietInputs_drive hq
  have hpos : s.sample.rcnt ≠ 0 := by rw [State.sample_rcnt, hr]; exact k.succ_ne_zero
  rw [step_hold hst (by rw [hd]) (by rw [hd]), holdCycle_next.2 ⟨hpos, rfl⟩]
  simp [State.holdStep, State.sample, hr, hresp, show s.outside = [] from hq]

/-- A hold counts its cycles, with the pins as they are (R137). -/
theorem steps_hold {s : State} {k : Nat} (hst : s.st = .hold) (hr : s.rcnt = k + 1) (hresp : s.resp = none)
    (hq : s.quietInputs) :
    steps (k + 1) s = .next { s with
      st := .idle, rcnt := 0, wave := s.wave ++ List.replicate (k + 1) (s.port, s.ddr) } := by
  induction k generalizing s with
  | zero => rw [steps_succ_of_next (step_hold_next hst hr hresp hq)]; rfl
  | succ k ih =>
    rw [steps_succ_of_next (step_hold_next hst hr hresp hq)]
    refine (ih (s := { s with st := .hold, rcnt := k + 1, wave := s.wave ++ [(s.port, s.ddr)] })
      rfl rfl hresp hq).trans ?_
    simp only [List.append_assoc, ← List.replicate_succ, List.singleton_append]

/-- From the end of the frame to the end of the command (R136, R137). -/
theorem steps_endFrame {s : State} (hresp : s.resp = none) (hq : s.quietInputs) :
    steps s.holdn s.endFrame = .next { s with
      st := .idle
      ie := s.ieSave
      rcnt := if s.holdn = 0 then s.rcnt else 0
      wave := s.wave ++ List.replicate s.holdn (s.port, s.ddr) } := by
  cases hh : s.holdn with
  | zero => simp [steps, State.endFrame, State.restoreInterrupts, hh]
  | succ k =>
    rw [steps_hold (s := s.endFrame) (by simp [hh]) (by simp [hh]) hresp hq]
    simp [State.endFrame, State.restoreInterrupts, hh]

/-! ### A whole frame command -/

/-- A frame command is an acceptance with its operands (R86, R170, R171). -/
theorem exec_frameOperands {i : Instr} {s : State} {o : FrameOperands} (h : i.frameOperands s.cfg = some o) :
    ∃ n : ByteCount, n.toNat = o.bytes ∧ exec i s = acceptFrame o.count o.addr n o.mask o.hold s := by
  cases i with
  | transmit a n m => cases h; exact ⟨_, byteCountTransmit_toNat n, rfl⟩
  | showRgb a n => cases h; exact ⟨_, byteCountRgb_toNat n, rfl⟩
  | showRgbw a n => cases h; exact ⟨_, byteCountRgbw_toNat n, rfl⟩
  | correct => cases h
  | sym0 => cases h
  | sym1 => cases h
  | reset => cases h

/-- A command whose count is not 0 sends at least one byte. -/
theorem frameOperands_bytes_pos {c : Config} {i : Instr} {o : FrameOperands} (h : i.frameOperands c = some o)
    (hc : o.count ≠ 0#16) : 0 < o.bytes := by
  have hpos : 0 < o.count.toNat := Nat.pos_of_ne_zero fun h0 => hc (BitVec.eq_of_toNat_eq h0)
  cases i with
  | transmit => cases h; exact hpos
  | showRgb => cases h; exact Nat.mul_pos (by decide) hpos
  | showRgbw => cases h; exact Nat.mul_pos (by decide) hpos
  | correct => cases h
  | sym0 => cases h
  | sym1 => cases h
  | reset => cases h

/-- The mask of a single pin is a legal mask (R85 (b)). -/
theorem oneHot_pin (p : Fin 8) : oneHot (1#8 <<< p.val) = true := by
  revert p
  decide

/-- The samples on pins driven high at acceptance are those on the pins as they were before. -/
theorem frameSamples_latched (p d m : Port) (levels : List Bool) :
    frameSamples (p ||| m) (d ||| m) m levels = frameSamples p d m levels := by
  simp only [frameSamples, or_and_not_self, BitVec.or_assoc, BitVec.or_self]

/-- The state after a frame command of the host is accepted with first byte `b`, `rest` the host's later moves. -/
def State.accepted (s : State) (o : FrameOperands) (rest : List HostMove) (b : Byte) : State :=
  { s.sample with host := rest }.latchFrame o.addr (BitVec.ofNat 18 o.bytes) o.mask o.hold b

/-- A presented frame command whose buffer is readable is accepted (R131, R132). -/
theorem step_frameCommand {s : State} {w : CommandWord} {rest : List HostMove} {i : Instr} {o : FrameOperands}
    {b : Byte} {bytes : List Byte} (hst : s.st = .idle) (hq : s.quietInputs) (hhost : s.host = .command w :: rest)
    (hdec : decodeCommand w = .ok i) (hop : i.frameOperands s.cfg = some o) (hcount : o.count ≠ 0#16)
    (hmask : oneHot o.mask = true) (hfits : o.addr.toNat + o.bytes ≤ 65536)
    (hbytes : s.mem.bytes o.addr.toNat o.bytes = some (b :: bytes)) :
    step s = .next (s.accepted o rest b) := by
  have hd := State.quietInputs_drive hq
  have hp : s.presents w { s.sample with host := rest } :=
    ⟨hst, by rw [hd], .inr ⟨by rw [hd], by rw [hhost]; rfl, by rw [hhost]; rfl⟩⟩
  obtain ⟨n, hn, hexec⟩ := exec_frameOperands (s := { s.sample with host := rest }) hop
  have hadm : admitted s.mem o.addr n = true :=
    (admitted_iff _ _ _).2 ⟨by omega, fun j hj => Memory.read_of_bytes hbytes (by omega)⟩
  have hread : s.mem.read o.addr.toNat = some b := by
    rw [← Memory.length_of_bytes hbytes] at hbytes
    exact (Memory.bytes_cons.1 hbytes).1
  have hnext := (acceptFrame_next (s := { s.sample with host := rest }) (h := o.hold)).2
    ⟨hst, hcount, hmask, hadm, b, hread, rfl⟩
  rw [step_presents hp hdec, hexec, hnext, State.accepted, ← hn, BitVec.ofNat_toNat, BitVec.setWidth_eq]

/-- Acceptance begins the first byte, the others still to be read (R132). -/
theorem State.accepted_atByte {s : State} {o : FrameOperands} {b : Byte} {bytes : List Byte} (rest : List HostMove)
    (hq : s.quietInputs) (hfits : o.addr.toNat + o.bytes ≤ 65536)
    (hbytes : s.mem.bytes o.addr.toNat o.bytes = some (b :: bytes)) :
    (s.accepted o rest b).AtByte bytes := by
  have hlen : (b :: bytes).length = o.bytes := Memory.length_of_bytes hbytes
  have hcnt : BitVec.ofNat 18 o.bytes - 1#18 = BitVec.ofNat 18 bytes.length := by
    rw [← hlen, List.length_cons, BitVec.ofNat_add, BitVec.add_sub_cancel]
  have hset (p : Port) : p ||| o.mask ||| o.mask = p ||| o.mask := by rw [BitVec.or_assoc, BitVec.or_self]
  rw [← hlen] at hbytes hfits
  obtain ⟨hfits, hbuffer⟩ := Memory.bytes_tail hfits hbytes
  exact ⟨⟨rfl, rfl, hset s.port, hset s.ddr, rfl, State.quietInputs_sample hq⟩, rfl, hcnt, hfits, hbuffer⟩

theorem frameSamples_replicate_false (p d m : Port) (k : Nat) :
    frameSamples p d m (List.replicate k false) = List.replicate k (p &&& ~~~m, d ||| m) :=
  List.map_replicate

/-- The whole-command law (R140): an admitted frame command runs to its end state, and `WAVE` has grown by the
acceptance cycle's sample, the frame's levels on the masked pin, and the hold's low samples. -/
theorem steps_frameCommand {s : State} {w : CommandWord} {rest : List HostMove} {i : Instr} {o : FrameOperands}
    {bytes : List Byte} (hst : s.st = .idle) (hq : s.quietInputs) (hhost : s.host = .command w :: rest)
    (hdec : decodeCommand w = .ok i) (hop : i.frameOperands s.cfg = some o) (hcount : o.count ≠ 0#16)
    (hmask : oneHot o.mask = true) (hfits : o.addr.toNat + o.bytes ≤ 65536)
    (hbytes : s.mem.bytes o.addr.toNat o.bytes = some bytes) :
    steps (8 * o.bytes * s.cfg.nTotal + o.hold + 1) s = .next { s with
      st := .idle
      ie := s.ie
      ieSave := s.ie
      ddr := s.ddr ||| o.mask
      port := s.port &&& ~~~o.mask
      mask := o.mask
      holdn := o.hold
      rcnt := if o.hold = 0 then s.rcnt else 0
      cnt := 0#18
      bitn := 0#3
      cyc := s.cfg.nTotal - 1
      ptr := BitVec.ofNat 16 (o.addr.toNat + o.bytes)
      sr := s.cfg.dimAt (bytes.getLastD 0#8) <<< 7
      resp := none
      host := rest
      wave := s.wave ++ (s.port, s.ddr) :: frameSamples s.port s.ddr o.mask
        (frameLevels s.cfg bytes ++ List.replicate o.hold false) } := by
  have hlen := Memory.length_of_bytes hbytes
  cases bytes with
  | nil => exact absurd hlen (Nat.ne_of_lt (frameOperands_bytes_pos hop hcount))
  | cons b bytes =>
    have haccept := step_frameCommand hst hq hhost hdec hop hcount hmask hfits hbytes
    have hbyte := s.accepted_atByte rest hq hfits hbytes
    have hframe : steps (8 * (bytes.length + 1) * s.cfg.nTotal) (s.accepted o rest b) = _ := hbyte.steps_frame
    have hhold : steps o.hold ((s.accepted o rest b).frameEnd bytes).endFrame = _ :=
      steps_endFrame (s := (s.accepted o rest b).frameEnd bytes) hbyte.resp hbyte.quiet
    have hsr : (bytes.map s.cfg.dimAt).getLastD (s.cfg.dimAt b) = s.cfg.dimAt (bytes.getLastD b) := by
      simp only [List.getLastD_eq_getLast?, List.getLast?_map, Option.getD_map]
    have hquiet : s.outside.tail = s.outside := by rw [hq]; rfl
    rw [List.length_cons] at hlen
    rw [← hlen, steps_succ_of_next haccept, steps_add_of_next hframe, hhold]
    simp only [State.frameEnd, State.accepted, State.latchFrame, State.disableInterrupts, State.setOutput,
      State.driveHigh, State.sample, ofNat_succ_toNat_add, or_and_not_self, hsr, hquiet, frameSamples_latched,
      frameSamples_append, frameSamples_replicate_false, frameLevels, frameBits, List.getLastD_cons,
      List.flatMap_cons, List.append_assoc, List.cons_append, List.nil_append, State.cfg]

/-! ### The pin -/

/-- Read on the pin of the mask, the samples of a level string are that level string (R16). -/
theorem pinLevels_frameSamples (p : Fin 8) (q d : Port) (levels : List Bool) :
    pinLevels p (frameSamples q d (1#8 <<< p.val) levels) = levels := by
  have hlevel (l : Bool) :
      (if l then q ||| 1#8 <<< p.val else q &&& ~~~(1#8 <<< p.val)).getLsbD p.val = l := by
    cases l <;> simp
  simp only [pinLevels, frameSamples, List.map_map]
  exact (List.map_congr_left fun l _ => hlevel l).trans (List.map_id levels)

/-- A level string that ends with `k` low cycles ends low for `k` cycles. -/
theorem endsLow_append_replicate (levels : List Bool) (k : Nat) :
    endsLow k (levels ++ List.replicate k false) = true := by
  simp [endsLow]

/-- Settles O48, from the whole-command law: the levels of the pin after the acceptance cycle are those of the frame
and the hold, which read back as in `frameLevelsReadBackAsTheFrameBits`. -/
theorem frameCommandsPutTheirSymbolsOnThePin : Obligations.FrameCommandsPutTheirSymbolsOnThePin := by
  intro s w rest i o bytes p f hst hq hhost hdec hop hcount hmask hfits hbytes
  have hpin : oneHot o.mask = true := hmask ▸ oneHot_pin p
  have hlevels : pinLevels p (frameSamples s.port s.ddr o.mask
      (frameLevels s.cfg bytes ++ List.replicate o.hold false))
        = frameLevels s.cfg bytes ++ List.replicate o.hold false := hmask ▸ pinLevels_frameSamples p _ _ _
  refine ⟨_, steps_frameCommand hst hq hhost hdec hop hcount hpin hfits hbytes, ?_, ?_⟩
  · dsimp only
    rw [List.append_cons, List.drop_left' (by simp), hlevels]
    exact frameLevelsReadBackAsTheFrameBits s.cfg f bytes o.hold
  · rw [List.append_cons, pinLevels, List.map_append, ← pinLevels, ← pinLevels, hlevels, ← List.append_assoc]
    exact endsLow_append_replicate _ o.hold

end Sys2Proof.Machine

/-! ### The frames of the instructions -/

namespace Sys2Proof.Machine

/-- A bit that is set stays set when others are set. -/
theorem or_and_left_self {n : Nat} (p m : BitVec n) : (p ||| m) &&& p = p := by
  ext i hi
  cases h : p[i] <;> simp [h]

/-- The bits of a mask just set are set. -/
theorem or_and_right_self {n : Nat} (p m : BitVec n) : (p ||| m) &&& m = m := by
  rw [BitVec.or_comm, or_and_left_self]

/-- The bits of a mask just cleared are clear. -/
theorem and_not_and_self {n : Nat} (p m : BitVec n) : p &&& ~~~m &&& m = 0#n := by
  simp [BitVec.and_assoc]

/-- Settles O36: an accepted frame command only latches its frame, and writes `PORT` and `DDR` through its mask. -/
theorem frameCommandsLeaveTheRestAlone : Obligations.FrameCommandsLeaveTheRestAlone := by
  intro i o s t hop e
  obtain ⟨n, -, hexec⟩ := exec_frameOperands hop
  obtain ⟨-, -, -, -, b, -, rfl⟩ := acceptFrame_next.1 (hexec.symm.trans e)
  exact ⟨or_and_not_self s.port o.mask, or_and_not_self s.ddr o.mask, or_and_left_self s.ddr o.mask, rfl,
    fun _ => rfl, rfl, rfl, rfl, rfl, rfl⟩

/-- The frame of a wire symbol as an instruction: that of the `SEND` or `HOLD` cycle it is (R133 to R137). -/
theorem exec_onWire_frame {i : Instr} {s t : State} (hi : i.onWire = true) (e : exec i s = .next t) :
    SymbolFrame s t := by
  cases i with
  | sym0 =>
    obtain ⟨-, -, h⟩ := execSym0_next.1 e
    exact sendCycle_frame h
  | sym1 =>
    obtain ⟨-, -, h⟩ := execSym1_next.1 e
    exact sendCycle_frame h
  | reset =>
    obtain ⟨-, h⟩ | ⟨-, rfl⟩ := execReset_next.1 e
    · exact holdCycle_frame h
    · exact {}
  | correct => cases hi
  | transmit => cases hi
  | showRgb => cases hi
  | showRgbw => cases hi

/-- A cycle of `RESET` writes at most `RCNT` and `ST` (R137, R138). -/
theorem execReset_keeps {s t : State} (e : execReset s = .next t) : t = { s with rcnt := t.rcnt, st := t.st } := by
  obtain ⟨-, h⟩ | ⟨-, rfl⟩ := execReset_next.1 e
  · obtain ⟨-, rfl⟩ := holdCycle_next.1 h
    rfl
  · rfl

/-- Settles O43: the frame of every symbol, and the stronger one of `RESET`. -/
theorem symbolsLeaveTheRestAlone : Obligations.SymbolsLeaveTheRestAlone := by
  intro i s t hi e
  have h := exec_onWire_frame hi e
  refine ⟨h.mask, h.holdn, h.ieSave, h.ddr, h.unmaskedPins, fun a => by rw [h.mem], h.resp, h.wave, h.build, h.host,
    h.outside, ?_⟩
  rintro rfl
  rw [execReset_keeps e]
  exact ⟨rfl, rfl, rfl, rfl, rfl, rfl, rfl⟩

/-! ### The symbols on and off the wire -/

/-- The symbol of a bit. -/
theorem State.symbol_of_msb {s : State} {b : Bool} (h : s.sr.msb = b) : s.symbol = bitSymbol b :=
  congrArg bitSymbol h

/-- While a frame is sent, a step executes the symbol the wire carries (R22, R88). -/
theorem step_send_symbol {s : State} (hst : s.st = .send) (hr : s.drive.rst = false) (hc : s.drive.cmd = none) :
    step s = exec s.symbol s.sample :=
  (step_send hst hr hc).trans (exec_symbol (s := s.sample) hst).symm

/-- Settles O13: by the bit in `SR[7]`, and a hold's step is that of `RESET`. -/
theorem stepRunsTheSymbolOnTheWire : Obligations.StepRunsTheSymbolOnTheWire := by
  intro s hr hc
  refine ⟨fun hst hb => ?_, fun hst hb => ?_, fun hst => ?_⟩
  · rw [step_send_symbol hst hr hc, State.symbol_of_msb hb]
    rfl
  · rw [step_send_symbol hst hr hc, State.symbol_of_msb hb]
    rfl
  · have hexec : exec .reset s.sample = holdCycle s.sample := by simp only [exec, execReset, State.sample_st, hst]
    rw [step_hold hst hr hc, hexec]

/-- The wire carries the symbol of `b` in the `SEND` cycles of a bit `b`. -/
theorem State.carries_eq_false {s : State} {b : Bool} : s.carries b = false ↔ s.st ≠ .send ∨ s.sr.msb = !b := by
  cases b <;> simp [State.carries, imp_iff_not_or]

/-- A `SEND` cycle past the end of the bit period has no step rule (R24). -/
theorem sendCycle_of_nTotal_le {b : Bool} {s : State} (h : s.cfg.nTotal ≤ s.cyc) :
    sendCycle b s = .fault .cycOutOfRange := by
  unfold sendCycle
  rw [if_neg (by omega), if_neg (by omega)]

/-- A byte outside the launch memory cannot be loaded (R68). -/
theorem sendCycle_of_read_none {b : Bool} {s : State} (hcyc : s.cyc + 1 = s.cfg.nTotal)
    (hbit : s.bitn = 0#3) (hcnt : s.cnt ≠ 0#18) (hread : s.mem.read s.ptr.toNat = none) :
    sendCycle b s = .fault .byteNotInLaunchMemory := by
  simp [sendCycle, hcyc, hbit, hcnt, hread]

/-- Settles O44: off the wire by `State.carries`, on it by the two faults of a `SEND` cycle and that of a hold. -/
theorem symbolsStopOffTheWire : Obligations.SymbolsStopOffTheWire := by
  intro s
  refine ⟨fun h => ?_, fun h => ?_, fun hst => ?_, fun hst hr => ?_, fun hst hcyc => ?_,
    fun hst hcyc hbit hcnt hread => ?_⟩
  · have hc : s.carries false = false := State.carries_eq_false.2 h
    simp only [exec, execSym0, hc, Bool.false_eq_true, if_false]
  · have hc : s.carries true = false := State.carries_eq_false.2 h
    simp only [exec, execSym1, hc, Bool.false_eq_true, if_false]
  · simp only [exec, execReset, hst]
  · simp only [exec, execReset, hst, holdCycle, hr, if_true]
  · rw [exec_symbol hst, sendCycle_of_nTotal_le hcyc]
  · rw [exec_symbol hst, sendCycle_of_read_none hcyc hbit hcnt hread]

/-! ### The interrupt enable -/

/-- A `SEND` cycle keeps `IE` while it stays in `SEND`, and restores it where it leaves (R136). -/
theorem sendCycle_ie {b : Bool} {s t : State} (hst : s.st = .send) (e : sendCycle b s = .next t) :
    (t.st = .send ∧ t.ie = s.ie) ∨ (t.st ≠ .send ∧ t.ie = s.ieSave) := by
  obtain ⟨-, rfl⟩ | ⟨-, -, rfl⟩ | ⟨-, -, -, byte, -, rfl⟩ | ⟨-, -, -, rfl⟩ := sendCycle_next.1 e
  · exact .inl ⟨hst, rfl⟩
  · exact .inl ⟨hst, rfl⟩
  · exact .inl ⟨hst, rfl⟩
  · refine .inr ⟨?_, rfl⟩
    rw [State.endFrame_st]
    split <;> decide

/-- Settles O20: only a `SEND` cycle steps from `SEND`, only a `HOLD` cycle from `HOLD`. -/
theorem leavingSendRestoresTheInterruptEnable : Obligations.LeavingSendRestoresTheInterruptEnable := by
  intro s t e
  obtain ⟨_, _, _, ⟨hst, -⟩, -⟩ | ⟨hst, -⟩ | ⟨hst, -, -, h⟩ | ⟨hst, -, -, h⟩ := step_next e
  · simp [hst]
  · simp [hst]
  · obtain ⟨ht, hie⟩ | ⟨ht, hie⟩ := sendCycle_ie (s := s.sample) hst h <;> simp [hst, ht, hie]
  · obtain ⟨-, rfl⟩ := holdCycle_next.1 h
    simp [hst]

/-! ### The host's writes -/

/-- A place of the machine that one host write replaces or leaves holds, after a list of them, what the last write to
it wrote. -/
theorem State.hostWrites_place {α : Type} (place : State → Option α) (f : HostWrite → Option α)
    (hone : ∀ s w, place (s.hostWrite w) = (f w).or (place s)) (ws : List HostWrite) (s : State) :
    place (s.hostWrites ws) = (lastWrite f ws).or (place s) := by
  induction ws generalizing s with
  | nil => rfl
  | cons w ws ih =>
    calc place ((s.hostWrite w).hostWrites ws)
        = (lastWrite f ws).or ((f w).or (place s)) := by rw [ih, hone]
      _ = (lastWrite f (w :: ws)).or (place s) := by rw [lastWrite_cons, Option.or_assoc]

/-- After a list of host writes a register holds what the last write to it wrote, else what it held. -/
theorem State.hostWrites_register {α : Type} (reg : State → α) (f : HostWrite → Option α)
    (hone : ∀ s w, reg (s.hostWrite w) = (f w).getD (reg s)) (ws : List HostWrite) (s : State) :
    reg (s.hostWrites ws) = (lastWrite f ws).getD (reg s) := by
  have h := State.hostWrites_place (fun s => some (reg s)) f (fun s w => by rw [hone, Option.or_some]) ws s
  rwa [Option.or_some, Option.some_inj] at h

/-- One host write and one address of memory. -/
theorem State.hostWrite_read (x : Nat) (s : State) (w : HostWrite) :
    (s.hostWrite w).mem.read x = (w.byteAt x).or (s.mem.read x) := by
  cases w with
  | poke a b =>
    by_cases h : a.toNat = x
    · subst h
      simp [State.hostWrite, HostWrite.byteAt]
    · simp [State.hostWrite, HostWrite.byteAt, h, Memory.read_write_other _ _ (Ne.symm h)]
  | setIe => rfl
  | setPort => rfl
  | setDdr => rfl

/-- Settles O29: the step makes the writes, and each place holds the last one to it. -/
theorem lastHostWriteToAPlaceWins : Obligations.LastHostWriteToAPlaceWins := by
  intro s ws rest hst hr hc hh
  refine ⟨_, step_idle hst hr hc hh, State.hostWrites_host _ ws, ?_, ?_, ?_, fun x => ?_⟩
  · exact State.hostWrites_register State.ie HostWrite.ie (fun _ w => by cases w <;> rfl) ws _
  · exact State.hostWrites_register State.port HostWrite.port (fun _ w => by cases w <;> rfl) ws _
  · exact State.hostWrites_register State.ddr HostWrite.ddr (fun _ w => by cases w <;> rfl) ws _
  · exact State.hostWrites_place (fun s => s.mem.read x) (HostWrite.byteAt x) (State.hostWrite_read x) ws _

/-! ### The invariant of the machine -/

/-- Settles O23: the fields of `State.reset`. -/
theorem resetStateIsIdleAndEmpty : Obligations.ResetStateIsIdleAndEmpty :=
  ⟨rfl, rfl, rfl, rfl, rfl⟩

/-- An idle state promises only its memory and the range of `RCNT`. -/
theorem State.Inv.of_idle {s : State} (hst : s.st = .idle) (hmem : s.mem.wf)
    (hrcnt : s.rcnt ≤ max s.cfg.nResetRgb s.cfg.nResetRgbw) : s.Inv :=
  ⟨hmem, hrcnt, fun h => (by rw [hst] at h; cases h), fun h => (by rw [hst] at h; cases h)⟩

/-- A `SEND` state promises `sendInv` besides. -/
theorem State.Inv.of_send {s : State} (hst : s.st = .send) (hmem : s.mem.wf)
    (hrcnt : s.rcnt ≤ max s.cfg.nResetRgb s.cfg.nResetRgbw) (hsend : s.sendInv) : s.Inv :=
  ⟨hmem, hrcnt, fun _ => hsend, fun h => (by rw [hst] at h; cases h)⟩

/-- A `HOLD` state promises `holdInv` besides. -/
theorem State.Inv.of_hold {s : State} (hst : s.st = .hold) (hmem : s.mem.wf)
    (hrcnt : s.rcnt ≤ max s.cfg.nResetRgb s.cfg.nResetRgbw) (hhold : s.holdInv) : s.Inv :=
  ⟨hmem, hrcnt, fun h => (by rw [hst] at h; cases h), fun _ => hhold⟩

/-- Settles O24: the reset state is idle, its memory is empty and `RCNT` is 0. -/
theorem invariantHoldsAtReset : Obligations.InvariantHoldsAtReset :=
  .of_idle rfl ⟨.nil, fun _ h => by cases h⟩ (Nat.zero_le _)

/-- A legal hold length is in the range of `RCNT` (R28, R29). -/
theorem State.holdnLegal.le_max {s : State} (h : s.holdnLegal) : s.holdn ≤ max s.cfg.nResetRgb s.cfg.nResetRgbw := by
  obtain h | h | h := h <;> omega

/-- A bit that begins with its pins driven high begins on the level law (R132, R134, R135, R139). -/
theorem State.levelLaw_of_rise {s : State} {p : Port} (hcyc : s.cyc = 0) (hport : s.port = p ||| s.mask) :
    s.levelLaw := by
  have hhigh : s.cyc < s.cfg.highCycles s.sr.msb := by rw [hcyc]; exact s.cfg.highCycles_pos _
  rw [State.levelLaw, if_pos hhigh, hport, or_and_right_self]

/-- The windows of a bit keep the level law: the pins fall when the high phase of the symbol is over (R133, R139). -/
theorem State.levelLaw.insideBit {s : State} (h : s.levelLaw) : (s.insideBit s.sr.msb).levelLaw := by
  have hle := s.cfg.highCycles_le_nOne s.sr.msb
  have hfalls := State.falls_eq_true (s := s) (b := s.sr.msb)
  change (if s.falls s.sr.msb then s.port &&& ~~~s.mask else s.port) &&& s.mask
    = if s.cyc + 1 < s.cfg.highCycles s.sr.msb then s.mask else 0#8
  by_cases hf : s.falls s.sr.msb = true
  · have hover := hfalls.1 hf
    rw [if_pos hf, if_neg (by omega), and_not_and_self]
  · have hstays := mt hfalls.2 hf
    have hphase : s.cyc + 1 < s.cfg.highCycles s.sr.msb ↔ s.cyc < s.cfg.highCycles s.sr.msb := by omega
    rw [if_neg hf, h]
    exact if_congr hphase.symm rfl rfl

/-- What admission says of the bytes after the first (R68, R132, R135). -/
theorem admitted_after_first {m : Memory} {a : Addr} {n : ByteCount} (h : admitted m a n = true) (hn : n ≠ 0#18) :
    n - 1#18 = 0#18 ∨ admitted m (a + 1#16) (n - 1#18) = true :=
  or_iff_not_imp_left.2 (admitted_rest h hn)

/-- Acceptance begins a frame that meets the invariant (R132). -/
theorem State.latchFrame_sendInv {s : State} {a : Addr} {n : ByteCount} {m : Port} {k : Nat} (b : Byte)
    (hn : n ≠ 0#18) (hmask : oneHot m = true) (hk : k = 0 ∨ k = s.cfg.nResetRgb ∨ k = s.cfg.nResetRgbw)
    (hadm : admitted s.mem a n = true) : (s.latchFrame a n m k b).sendInv :=
  ⟨s.cfg.nTotal_pos, rfl, hmask, or_and_right_self s.ddr m, State.levelLaw_of_rise (p := s.port) rfl rfl, hk,
    admitted_after_first hadm hn⟩

/-- A cycle inside a bit keeps what `SEND` promises (R133). -/
theorem State.sendInv.insideBit {s : State} (h : s.sendInv) (hcyc : s.cyc + 1 < s.cfg.nTotal) :
    (s.insideBit s.sr.msb).sendInv := by
  obtain ⟨-, hie, hmask, hddr, hlevel, hholdn, hrest⟩ := h
  exact ⟨hcyc, hie, hmask, hddr, State.levelLaw.insideBit hlevel, hholdn, hrest⟩

/-- So does the cycle at the end of a bit inside a byte (R134). -/
theorem State.sendInv.nextBit {s : State} (h : s.sendInv) : s.nextBit.sendInv := by
  obtain ⟨-, hie, hmask, hddr, -, hholdn, hrest⟩ := h
  exact ⟨s.cfg.nTotal_pos, hie, hmask, hddr, State.levelLaw_of_rise (p := s.port) rfl rfl, hholdn, hrest⟩

/-- So does the load of the next byte: the rest of the buffer stays readable (R135, R68). -/
theorem State.sendInv.nextByte {s : State} (h : s.sendInv) (b : Byte) (hcnt : s.cnt ≠ 0#18) :
    (s.nextByte b).sendInv := by
  obtain ⟨-, hie, hmask, hddr, -, hholdn, hrest⟩ := h
  exact ⟨s.cfg.nTotal_pos, hie, hmask, hddr, State.levelLaw_of_rise (p := s.port) rfl rfl, hholdn,
    admitted_after_first (hrest.resolve_left hcnt) hcnt⟩

/-- The last cycle of a frame is a low one, so a hold begins low (R136, R142). -/
theorem State.sendInv.port_low {s : State} (h : s.sendInv) (hcyc : s.cyc + 1 = s.cfg.nTotal) :
    s.port &&& s.mask = 0#8 := by
  obtain ⟨-, -, -, -, hlevel, -⟩ := h
  have hlt := s.cfg.highCycles_lt s.sr.msb
  rw [hlevel, if_neg (by omega)]

/-- The end of a frame leads to an idle state or to the first cycle of the hold (R136). -/
theorem State.endFrame_inv {s : State} (hmem : s.mem.wf) (hrcnt : s.rcnt ≤ max s.cfg.nResetRgb s.cfg.nResetRgbw)
    (h : s.sendInv) (hcyc : s.cyc + 1 = s.cfg.nTotal) : s.endFrame.Inv := by
  have hlow := h.port_low hcyc
  obtain ⟨-, -, hmask, hddr, -, hholdn, -⟩ := h
  by_cases h0 : s.holdn = 0
  · refine .of_idle (if_pos h0) hmem ?_
    rw [State.endFrame_rcnt, if_pos h0]
    exact hrcnt
  · have hr : s.endFrame.rcnt = s.holdn := if_neg h0
    refine .of_hold (if_neg h0) hmem ?_ ⟨?_, ?_, hmask, hddr, hlow, hholdn⟩
    · exact hr.trans_le (State.holdnLegal.le_max hholdn)
    · exact hr ▸ Nat.one_le_iff_ne_zero.2 h0
    · exact hr.le

/-- A `SEND` cycle keeps the invariant (R133 to R136). -/
theorem sendCycle_inv {s t : State} (hs : s.Inv) (hst : s.st = .send) (e : sendCycle s.sr.msb s = .next t) :
    t.Inv := by
  obtain ⟨hmem, hrcnt, hsend, -⟩ := hs
  have h := hsend hst
  obtain ⟨hcyc, rfl⟩ | ⟨-, -, rfl⟩ | ⟨-, -, hcnt, byte, -, rfl⟩ | ⟨hcyc, -, -, rfl⟩ := sendCycle_next.1 e
  · exact .of_send hst hmem hrcnt (h.insideBit hcyc)
  · exact .of_send hst hmem hrcnt h.nextBit
  · exact .of_send hst hmem hrcnt (h.nextByte byte hcnt)
  · exact State.endFrame_inv hmem hrcnt h hcyc

/-- A `HOLD` cycle keeps the invariant (R137). -/
theorem holdStep_inv {s : State} (hs : s.Inv) (hst : s.st = .hold) : s.holdStep.Inv := by
  obtain ⟨hmem, hrcnt, -, hhold⟩ := hs
  obtain ⟨-, hle, hpins⟩ := hhold hst
  have hrcnt' : s.rcnt - 1 ≤ max s.cfg.nResetRgb s.cfg.nResetRgbw := (Nat.sub_le _ _).trans hrcnt
  by_cases h : s.rcnt - 1 = 0
  · exact .of_idle (if_pos h) hmem hrcnt'
  · exact .of_hold (if_neg h) hmem hrcnt' ⟨Nat.one_le_iff_ne_zero.2 h, (Nat.sub_le _ _).trans hle, hpins⟩

/-- Every instruction that runs keeps the invariant. -/
theorem exec_inv {i : Instr} {s t : State} (hs : s.Inv) (e : exec i s = .next t) : t.Inv := by
  obtain ⟨_, -, -, rfl⟩ | ⟨-, -, a, n, m, k, b, hn, hmask, hk, hadm, -, rfl⟩ | ⟨-, hst, h⟩ | ⟨-, hst, -, rfl⟩
    | ⟨-, -, rfl⟩ := exec_next e
  · exact hs
  · obtain ⟨hmem, hrcnt, -⟩ := hs
    exact .of_send rfl hmem hrcnt (State.latchFrame_sendInv b hn hmask hk hadm)
  · exact sendCycle_inv hs hst h
  · exact holdStep_inv hs hst
  · exact hs

/-- Sampling the cycle and taking the host's move touch nothing the invariant speaks of. -/
theorem State.presents_inv {s u : State} {w : CommandWord} (hs : s.Inv) (h : s.presents w u) : u.Inv := by
  obtain ⟨-, -, ⟨-, rfl⟩ | ⟨-, -, rfl⟩⟩ := h <;> exact hs

/-- Settles O25: a command is executed in a state that meets the invariant; the host's writes keep the canonical form
of memory; a busy step is a `SEND` or a `HOLD` cycle of the sampled state. -/
theorem stepKeepsTheInvariant : Obligations.StepKeepsTheInvariant := by
  intro s t hs e
  obtain ⟨w, i, u, hp, -, h⟩ | ⟨hst, rest, ws, rfl⟩ | ⟨hst, -, -, h⟩ | ⟨hst, -, -, h⟩ := step_next e
  · exact exec_inv (State.presents_inv hs hp) h
  · obtain ⟨hmem, hrcnt, -⟩ := hs
    refine .of_idle ?_ (State.hostWrites_wf ws hmem) ?_
    · exact (State.hostWrites_st _ ws).trans hst
    · rw [State.cfg, State.hostWrites_build, State.hostWrites_rcnt]
      exact hrcnt
  · exact sendCycle_inv (s := s.sample) hs hst h
  · obtain ⟨-, rfl⟩ := holdCycle_next.1 h
    exact holdStep_inv (s := s.sample) hs hst

end Sys2Proof.Machine

/-! ### Who writes buffer memory -/

namespace Sys2Proof.Machine

/-- No instruction writes buffer memory (R61): a command latches registers, a symbol is a `SEND` or a `HOLD` cycle. -/
theorem exec_mem {i : Instr} {s t : State} (e : exec i s = .next t) : t.mem = s.mem := by
  obtain ⟨_, -, -, rfl⟩ | ⟨-, -, _, _, _, _, _, -, -, -, -, -, rfl⟩ | ⟨-, -, h⟩ | ⟨-, -, -, rfl⟩
    | ⟨-, -, rfl⟩ := exec_next e
  case inr.inr.inl => exact (sendCycle_frame h).mem
  all_goals rfl

/-- Host writes without a byte among them leave memory alone. -/
theorem State.hostWrites_mem {ws : List HostWrite} (h : ∀ a b, HostWrite.poke a b ∉ ws) (s : State) :
    (s.hostWrites ws).mem = s.mem := by
  induction ws generalizing s with
  | nil => rfl
  | cons w ws ih =>
    have hw : (s.hostWrite w).mem = s.mem := by
      cases w with
      | poke a b => exact absurd List.mem_cons_self (h a b)
      | setIe => rfl
      | setPort => rfl
      | setDdr => rfl
    have hrest : ∀ a b, HostWrite.poke a b ∉ ws := fun a b hp => h a b (List.mem_cons_of_mem w hp)
    exact (ih hrest (s.hostWrite w)).trans hw

/-- The host's next move writes no byte of memory. -/
def State.PokesNothing (s : State) : Prop :=
  ∀ ws rest, s.host = .idle ws :: rest → ∀ a b, HostWrite.poke a b ∉ ws

/-- The state a cycle leaves behind, or executes its instruction in, has the memory `m`. -/
def Cycle.HasMem (m : Memory) : Cycle → Prop
  | .run _ t => t.mem = m
  | .quiet t => t.mem = m
  | .refuse _ => True

/-- Decoding a command touches no memory. -/
theorem present_hasMem (w : CommandWord) (t : State) : (present w t).HasMem t.mem := by
  unfold present
  split
  · rfl
  · trivial

/-- The reset of an idle engine writes memory only through the host's own bytes (R201). -/
theorem resetCycle_mem {t : State} (h : t.PokesNothing) : (resetCycle t).mem = t.mem := by
  unfold resetCycle
  split
  · rfl
  · next ws rest hh => exact State.hostWrites_mem (h ws rest hh) _
  · rfl

/-- So does an idle cycle (R138). -/
theorem idleCycle_hasMem (d : OutsideDrive) {t : State} (h : t.PokesNothing) : (idleCycle d t).HasMem t.mem := by
  unfold idleCycle
  split
  · exact present_hasMem _ t
  · split
    · rfl
    · next ws rest hh => exact State.hostWrites_mem (h ws rest hh) _
    · exact present_hasMem _ _

/-- Finding the cycle writes memory only through the host's bytes. This is what `step_next` does not keep: that the
writes of an idle cycle are those of the host's next move. -/
theorem fetch_hasMem {s : State} (h : s.PokesNothing) : (fetch s).HasMem s.mem := by
  have hs : s.sample.PokesNothing := h
  unfold fetch
  split
  · split
    · trivial
    · exact resetCycle_mem hs
  · split
    · exact idleCycle_hasMem s.drive hs
    · split
      · trivial
      · rfl
    · split
      · trivial
      · rfl

/-- Settles O27: no instruction writes memory, and finding the cycle writes only the host's bytes. -/
theorem engineNeverWritesMemory : Obligations.EngineNeverWritesMemory := by
  refine ⟨fun _ _ _ => exec_mem, fun s t e h => ?_⟩
  have hmem := fetch_hasMem (s := s) h
  unfold step at e
  cases hf : fetch s with
  | run i u =>
    rw [hf] at e hmem
    exact (exec_mem e).trans hmem
  | quiet u =>
    rw [hf] at e hmem
    injection e with e
    exact e ▸ hmem
  | refuse r =>
    rw [hf] at e
    cases e

/-! ### What a frame cycle reads -/

/-- A `SEND` cycle reads nothing of memory but the byte at `PTR`, and that only where it loads it (R60, R135). -/
theorem sendCycle_with_mem {b : Bool} {s t : State} {m : Memory} (e : sendCycle b s = .next t)
    (hread : s.cyc + 1 = s.cfg.nTotal → s.bitn = 0#3 → s.cnt ≠ 0#18 → m.read s.ptr.toNat = s.mem.read s.ptr.toNat) :
    sendCycle b { s with mem := m } = .next { t with mem := m } := by
  obtain ⟨hcyc, rfl⟩ | ⟨hcyc, hbit, rfl⟩ | ⟨hcyc, hbit, hcnt, byte, hbyte, rfl⟩ | ⟨hcyc, hbit, hcnt, rfl⟩ :=
    sendCycle_next.1 e
  · exact sendCycle_next.2 (.inl ⟨hcyc, rfl⟩)
  · exact sendCycle_next.2 (.inr (.inl ⟨hcyc, hbit, rfl⟩))
  · have hbyte' : m.read s.ptr.toNat = some byte := (hread hcyc hbit hcnt).trans hbyte
    exact sendCycle_next.2 (.inr (.inr (.inl ⟨hcyc, hbit, hcnt, byte, hbyte', rfl⟩)))
  · exact sendCycle_next.2 (.inr (.inr (.inr ⟨hcyc, hbit, hcnt, rfl⟩)))

/-- A step from `SEND` that gives a next state is a `SEND` cycle with quiet inputs. -/
theorem step_next_of_send {s t : State} (hst : s.st = .send) (e : step s = .next t) :
    s.drive.rst = false ∧ s.drive.cmd = none ∧ sendCycle s.sr.msb s.sample = .next t := by
  obtain ⟨_, _, _, ⟨h, -⟩, -⟩ | ⟨h, -⟩ | ⟨-, h⟩ | ⟨h, -⟩ := step_next e
  case inr.inr.inl => exact h
  all_goals exact absurd (hst.symm.trans h) (by decide)

/-- Settles O31: the step is a `SEND` cycle of the sampled state, under either memory. -/
theorem frameCyclesReadOnlyTheNextByte : Obligations.FrameCyclesReadOnlyTheNextByte := by
  intro s t m hst hread e
  obtain ⟨hr, hc, h⟩ := step_next_of_send hst e
  calc step { s with mem := m }
      = sendCycle s.sr.msb { s.sample with mem := m } := step_send (s := { s with mem := m }) hst hr hc
    _ = .next { t with mem := m } := sendCycle_with_mem h hread

end Sys2Proof.Machine

/-! ### The command word -/

namespace Sys2Proof

/-- The fields of a packed word, at any widths: each is read at the offset that the fields below it fill (R81). -/
theorem fieldsOf_wordOf (W : Widths) (f : CommandFields W) : fieldsOf W (wordOf W f) = f := by
  have hop : (wordOf W f).extractLsb' (W.addr + W.cnt + W.port) 8 = f.op := by
    rw [wordOf, BitVec.extractLsb'_append_eq_of_le (by omega), BitVec.extractLsb'_append_eq_of_le (by omega),
      show W.addr + W.cnt + W.port - W.addr - W.cnt = W.port by omega, BitVec.extractLsb'_append_eq_left]
  have hmask : (wordOf W f).extractLsb' (W.addr + W.cnt) W.port = f.mask := by
    rw [wordOf, BitVec.extractLsb'_append_eq_of_le (by omega), BitVec.extractLsb'_append_eq_of_le (by omega),
      show W.addr + W.cnt - W.addr - W.cnt = 0 by omega, BitVec.extractLsb'_append_eq_right]
  have hcount : (wordOf W f).extractLsb' W.addr W.cnt = f.count := by
    rw [wordOf, BitVec.extractLsb'_append_eq_of_le (Nat.le_refl _), Nat.sub_self, BitVec.extractLsb'_append_eq_right]
  have haddr : (wordOf W f).extractLsb' 0 W.addr = f.addr := BitVec.extractLsb'_append_eq_right
  rw [fieldsOf, hop, hmask, hcount, haddr]

/-- A word is packed from its own fields: neighbouring extracts join (R81). -/
theorem wordOf_fieldsOf (W : Widths) (w : BitVec W.bits) : wordOf W (fieldsOf W w) = w := by
  have hmask : w.extractLsb' (W.addr + W.cnt + W.port) 8 ++ w.extractLsb' (W.addr + W.cnt) W.port
      = w.extractLsb' (W.addr + W.cnt) (8 + W.port) := BitVec.extractLsb'_append_extractLsb'_eq_extractLsb' rfl
  have hcount : w.extractLsb' (W.addr + W.cnt) (8 + W.port) ++ w.extractLsb' W.addr W.cnt
      = w.extractLsb' W.addr (8 + W.port + W.cnt) := BitVec.extractLsb'_append_extractLsb'_eq_extractLsb' rfl
  have haddr : w.extractLsb' W.addr (8 + W.port + W.cnt) ++ w.extractLsb' 0 W.addr
      = w.extractLsb' 0 W.bits := BitVec.extractLsb'_append_extractLsb'_eq_extractLsb' (Nat.zero_add _).symm
  rw [wordOf, fieldsOf, hmask, hcount, haddr, BitVec.extractLsb'_eq_self]

/-- A concatenation as a number. -/
theorem toNat_append_eq_mul_add {m n : Nat} (x : BitVec m) (y : BitVec n) :
    (x ++ y).toNat = x.toNat * 2 ^ n + y.toNat := by
  rw [BitVec.toNat_append, ← Nat.shiftLeft_add_eq_or_of_lt y.isLt, Nat.shiftLeft_eq]

/-- A packed word as a number: its fields are the digits (R81). -/
theorem wordOf_toNat (W : Widths) (f : CommandFields W) :
    (wordOf W f).toNat = ((f.op.toNat * 2 ^ W.port + f.mask.toNat) * 2 ^ W.cnt + f.count.toNat) * 2 ^ W.addr
      + f.addr.toNat := by
  simp only [wordOf, toNat_append_eq_mul_add]

/-- At the default widths the fields are those of the table (R81). -/
theorem fieldsOf_default (w : CommandWord) :
    fieldsOf {} w = { op := opField w, mask := maskField w, count := countField w, addr := addrField w } := rfl

theorem fields_commandWord (op : BitVec 8) (m : Port) (n : Count) (a : Addr) :
    opField (commandWord op m n a) = op ∧ maskField (commandWord op m n a) = m
      ∧ countField (commandWord op m n a) = n ∧ addrField (commandWord op m n a) = a := by
  have h := (fieldsOf_default _).symm.trans (fieldsOf_wordOf {} { op := op, mask := m, count := n, addr := a })
  exact CommandFields.mk.inj h

/-- The table index is the low half of `addr` (R81). -/
theorem idxField_eq_setWidth (w : CommandWord) : idxField w = (addrField w).setWidth 8 := by
  apply BitVec.eq_of_toNat_eq
  simp only [idxField, addrField, BitVec.extractLsb'_toNat, BitVec.toNat_setWidth]
  omega

/-- Settles O5: the two round trips at any widths, and the bit positions of the table. -/
theorem commandFieldsArePackedWithoutGaps : Obligations.CommandFieldsArePackedWithoutGaps := by
  refine ⟨fieldsOf_wordOf, fun W w => ⟨wordOf_fieldsOf W w, ?_⟩,
    fun w => ⟨fieldsOf_default w, ?_, ?_, ?_, ?_, ?_⟩⟩
  · rw [← wordOf_toNat, wordOf_fieldsOf]
  · rw [opField, BitVec.extractLsb'_toNat, Nat.shiftRight_eq_div_pow]
    omega
  · rw [maskField, BitVec.extractLsb'_toNat, Nat.shiftRight_eq_div_pow]
  · rw [countField, BitVec.extractLsb'_toNat, Nat.shiftRight_eq_div_pow]
  · rw [addrField, BitVec.extractLsb'_toNat, Nat.shiftRight_zero]
  · rw [idxField, BitVec.extractLsb'_toNat, Nat.shiftRight_zero]

/-! ### The decoder, one equation for each opcode (R82, R84) -/

theorem decodeCommand_correct {w : CommandWord} (h : opField w = 0x01#8) :
    decodeCommand w = .ok (.correct (idxField w)) := if_pos h

theorem decodeCommand_transmit {w : CommandWord} (h : opField w = 0x02#8) :
    decodeCommand w = .ok (.transmit (addrField w) (countField w) (maskField w)) := by
  simp [decodeCommand, h]

theorem decodeCommand_showRgb {w : CommandWord} (h : opField w = 0x03#8) :
    decodeCommand w = .ok (.showRgb (addrField w) (countField w)) := by
  simp [decodeCommand, h]

theorem decodeCommand_showRgbw {w : CommandWord} (h : opField w = 0x04#8) :
    decodeCommand w = .ok (.showRgbw (addrField w) (countField w)) := by
  simp [decodeCommand, h]

theorem decodeCommand_reserved {w : CommandWord} (h1 : opField w ≠ 0x01#8) (h2 : opField w ≠ 0x02#8)
    (h3 : opField w ≠ 0x03#8) (h4 : opField w ≠ 0x04#8) :
    decodeCommand w = .error (.reservedOpcode (opField w)) := by
  rw [decodeCommand, if_neg h1, if_neg h2, if_neg h3, if_neg h4]

/-- Settles O2: by the instruction, the fields of its word and the decoder's equation for its opcode. -/
theorem decodingAnEncodedCommandGivesItBack : Obligations.DecodingAnEncodedCommandGivesItBack := by
  intro i
  cases i with
  | correct idx =>
    obtain ⟨hop, -, -, ha⟩ := fields_commandWord 0x01#8 0#8 0#16 (idx.setWidth 16)
    refine .inr ⟨rfl, _, rfl, ?_⟩
    rw [decodeCommand_correct hop, idxField_eq_setWidth, ha, BitVec.setWidth_setWidth_of_le idx (by decide),
      BitVec.setWidth_eq]
  | transmit a n m =>
    obtain ⟨hop, hm, hn, ha⟩ := fields_commandWord 0x02#8 m n a
    exact .inr ⟨rfl, _, rfl, by rw [decodeCommand_transmit hop, ha, hn, hm]⟩
  | showRgb a n =>
    obtain ⟨hop, -, hn, ha⟩ := fields_commandWord 0x03#8 0#8 n a
    exact .inr ⟨rfl, _, rfl, by rw [decodeCommand_showRgb hop, ha, hn]⟩
  | showRgbw a n =>
    obtain ⟨hop, -, hn, ha⟩ := fields_commandWord 0x04#8 0#8 n a
    exact .inr ⟨rfl, _, rfl, by rw [decodeCommand_showRgbw hop, ha, hn]⟩
  | sym0 => exact .inl ⟨rfl, rfl⟩
  | sym1 => exact .inl ⟨rfl, rfl⟩
  | reset => exact .inl ⟨rfl, rfl⟩

/-- Settles O1: eight closed words, evaluated. -/
theorem commandWordsOfTheSpecDecode : Obligations.CommandWordsOfTheSpecDecode := by
  unfold Obligations.CommandWordsOfTheSpecDecode
  decide

/-- Settles O7: the decoder's equation for the common opcode reads only the fields that agree. -/
theorem unusedFieldsAreIgnored : Obligations.UnusedFieldsAreIgnored := by
  intro v w hop
  refine ⟨fun h1 hidx => ?_, fun h34 hcount haddr => ?_⟩
  · rw [decodeCommand_correct h1, decodeCommand_correct (hop.trans h1), hidx]
  · obtain h3 | h4 := h34
    · rw [decodeCommand_showRgb h3, decodeCommand_showRgb (hop.trans h3), hcount, haddr]
    · rw [decodeCommand_showRgbw h4, decodeCommand_showRgbw (hop.trans h4), hcount, haddr]

end Sys2Proof

/-! ### The wire symbols -/

namespace Sys2Proof

/-- A line held low shows no bit period: each begins high (R89). -/
theorem replicate_false_ne_symLevels (c : Config) (b : Bool) (k : Nat) :
    List.replicate k false ≠ symLevels c b := by
  obtain ⟨rest, h⟩ := symLevels_cons c b
  cases k <;> simp [h, List.replicate_succ]

/-- A bit period decodes to its bit's symbol (R89). -/
theorem decodeWire_symLevels (c : Config) (f : Family) (b : Bool) :
    decodeWire c f (symLevels c b) = some (bitSymbol b) := by
  cases b
  · exact if_pos rfl
  · rw [decodeWire, if_neg (symLevels_ne c), if_pos rfl]
    rfl

/-- A line low for at least `N_RESET` cycles decodes to `RESET` (R90). -/
theorem decodeWire_low (c : Config) (f : Family) {k : Nat} (h : c.nReset f ≤ k) :
    decodeWire c f (List.replicate k false) = some .reset := by
  rw [decodeWire, if_neg (replicate_false_ne_symLevels c false k), if_neg (replicate_false_ne_symLevels c true k)]
  simp [h]

/-- Settles O3: the two bit shapes and the low line, by the symbol. -/
theorem decodingAnEncodedSymbolGivesItBack : Obligations.DecodingAnEncodedSymbolGivesItBack := by
  refine fun c f => ⟨fun i levels h => ?_, fun k => decodeWire_low c f⟩
  cases i with
  | sym0 => cases h; exact decodeWire_symLevels c f false
  | sym1 => cases h; exact decodeWire_symLevels c f true
  | reset => cases h; exact decodeWire_low c f (Nat.le_refl _)
  | correct => cases h
  | transmit => cases h
  | showRgb => cases h
  | showRgbw => cases h

end Sys2Proof

/-! ### Presented commands -/

namespace Sys2Proof.Machine

/-- A presented command word is what the cycle turns out to be (R80, R44). -/
theorem fetch_of_presents {s t : State} {w : CommandWord} (h : s.presents w t) : fetch s = present w t := by
  obtain ⟨hst, hr, hcycle⟩ := h
  have hidle : fetch s = idleCycle s.drive s.sample := by simp [fetch, hr, hst]
  rw [hidle, idleCycle]
  obtain ⟨hc, rfl⟩ | ⟨hc, hhost, rfl⟩ := hcycle
  · rw [hc]
  · obtain ⟨rest, hh⟩ := List.head?_eq_some_iff.1 hhost
    rw [hc]
    simp only [State.sample_host, hh, List.tail_cons]

/-- Settles O6: the decoder answers the reserved opcode, and the cycle is refused with it. -/
theorem reservedOpcodesAreRefused : Obligations.ReservedOpcodesAreRefused := by
  intro s t w hp h1 h2 h3 h4
  simp only [step, fetch_of_presents hp, present, decodeCommand_reserved h1 h2 h3 h4]

/-- Settles O12, whoever presents the command. -/
theorem stepRunsThePresentedCommand : Obligations.StepRunsThePresentedCommand :=
  fun _ _ _ _ => step_presents

/-- Settles O18: the reset is looked at first, then, in `SEND` and in `HOLD` alike, the command interface. -/
theorem busyMachineRefusesCommandsAndReset : Obligations.BusyMachineRefusesCommandsAndReset := by
  refine fun s hb => ⟨fun hr => ?_, fun w hr hc => ?_⟩
  · simp only [step, fetch, hr, hb, if_true]
  · obtain hst | hst := State.busy_eq_true.1 hb
    · simp [step, fetch, hr, hc, hst]
    · simp [step, fetch, hr, hc, hst]

end Sys2Proof.Machine

/-! ### The response -/

namespace Sys2Proof.Machine

/-- A command is executed with no response driven, on the build of its machine (R44). -/
theorem State.presents_resp {s u : State} {w : CommandWord} (h : s.presents w u) :
    u.resp = none ∧ u.cfg = s.cfg := by
  obtain ⟨-, -, ⟨-, rfl⟩ | ⟨-, -, rfl⟩⟩ := h <;> exact ⟨rfl, rfl⟩

/-- An instruction drives `DIM[idx]` as `CORRECT`, and no response as any other (R95, R100). -/
theorem exec_resp {i : Instr} {s t : State} (e : exec i s = .next t) :
    (∃ idx, i = .correct idx ∧ t.resp = some (s.cfg.dimAt idx)) ∨ t.resp = s.resp := by
  obtain ⟨idx, hi, -, rfl⟩ | ⟨-, -, _, _, _, _, _, -, -, -, -, -, rfl⟩ | ⟨-, -, h⟩ | ⟨-, -, -, rfl⟩
    | ⟨-, -, rfl⟩ := exec_next e
  · exact .inl ⟨idx, hi, rfl⟩
  · exact .inr rfl
  · exact .inr (sendCycle_frame h).resp
  · exact .inr rfl
  · exact .inr rfl

/-- Settles O16: every cycle begins with no response, and only `CORRECT` drives one. -/
theorem onlyCorrectDrivesTheResponse : Obligations.OnlyCorrectDrivesTheResponse := by
  intro s t r e hr
  have hsome : t.resp ≠ none := by rw [hr]; exact Option.some_ne_none r
  obtain ⟨w, i, u, hp, hd, h⟩ | ⟨-, rest, ws, rfl⟩ | ⟨-, -, -, h⟩ | ⟨-, -, -, h⟩ := step_next e
  · obtain ⟨hnone, hcfg⟩ := State.presents_resp hp
    obtain ⟨idx, rfl, hidx⟩ | hkeep := exec_resp h
    · refine ⟨w, u, idx, hp, hd, ?_⟩
      rw [← hcfg]
      exact Option.some_inj.1 (hr.symm.trans hidx)
    · exact absurd (hkeep.trans hnone) hsome
  · exact absurd (State.hostWrites_resp _ ws) hsome
  · exact absurd (sendCycle_frame h).resp hsome
  · exact absurd (holdCycle_frame h).resp hsome

/-! ### The bytes the host writes -/

/-- Settles O28: the step makes the one write. -/
theorem hostWriteIsSeenByLaterReads : Obligations.HostWriteIsSeenByLaterReads := by
  intro s a b rest hst hr hc hh
  refine ⟨_, step_idle hst hr hc hh, ?_, fun x hx => ?_, fun hwf => ?_⟩
  · exact s.mem.read_write_same a.toNat b
  · exact s.mem.read_write_other b hx
  · exact Memory.wf_write hwf a.isLt b

/-- The address after `a`, where the addresses do not run out. -/
theorem toNat_add_one {a : Addr} (h : a.toNat + 1 < 65536) : (a + 1#16).toNat = a.toNat + 1 := by
  bv_omega

/-- The bytes of a `poke` that does not wrap change no byte outside their range (R94). -/
theorem State.hostWrites_poke_outside {a : Addr} {bs : List Byte} (hfits : a.toNat + bs.length ≤ 65536) {x : Nat}
    (hx : x < a.toNat ∨ a.toNat + bs.length ≤ x) (s : State) :
    (s.hostWrites (pokeWrites a bs)).mem.read x = s.mem.read x := by
  induction bs generalizing a s with
  | nil => rfl
  | cons b bs ih =>
    rw [List.length_cons] at hfits hx
    have hfirst : (s.hostWrite (.poke a b)).mem.read x = s.mem.read x :=
      s.mem.read_write_other b (by omega)
    cases bs with
    | nil => exact hfirst
    | cons b' bs =>
      have ha : (a + 1#16).toNat = a.toNat + 1 := toNat_add_one (by rw [List.length_cons] at hfits; omega)
      exact (ih (by omega) (by omega) (s.hostWrite (.poke a b))).trans hfirst

/-- The bytes of a `poke` that does not wrap stand at consecutive addresses (R94). -/
theorem State.hostWrites_poke_bytes {a : Addr} {bs : List Byte} (hfits : a.toNat + bs.length ≤ 65536) (s : State) :
    (s.hostWrites (pokeWrites a bs)).mem.bytes a.toNat bs.length = some bs := by
  induction bs generalizing a s with
  | nil => rfl
  | cons b bs ih =>
    have hfirst : (s.hostWrite (.poke a b)).mem.read a.toNat = some b := s.mem.read_write_same a.toNat b
    refine Memory.bytes_cons.2 ?_
    cases bs with
    | nil => exact ⟨hfirst, rfl⟩
    | cons b' bs =>
      rw [List.length_cons] at hfits
      have ha : (a + 1#16).toNat = a.toNat + 1 := toNat_add_one (by rw [List.length_cons] at hfits; omega)
      have hrest : (a + 1#16).toNat + (b' :: bs).length ≤ 65536 := by omega
      refine ⟨?_, ?_⟩
      · exact (State.hostWrites_poke_outside hrest (.inl (by omega)) _).trans hfirst
      · rw [← ha]
        exact ih hrest (s.hostWrite (.poke a b))

/-! ### The directives -/

/-- An idle cycle of the host's writes, while no other agent drives the inputs. -/
theorem step_idle_quiet {s : State} {ws : List HostWrite} {rest : List HostMove} (hst : s.st = .idle)
    (hq : s.quietInputs) :
    step { s with host := .idle ws :: rest }
      = .next (State.hostWrites
          { s with host := rest, wave := s.wave ++ [(s.port, s.ddr)], resp := none } ws) := by
  have hd : State.drive { s with host := .idle ws :: rest } = { rst := false, cmd := none } :=
    State.quietInputs_drive hq
  have hout : s.outside.tail = s.outside := by rw [hq]; rfl
  rw [step_idle (s := { s with host := .idle ws :: rest }) hst (by rw [hd]) (by rw [hd]) rfl]
  simp only [State.sample, hout]

/-- `idle k` is `k` cycles without a write (R94). -/
theorem hostMoves_idle (k : Nat) : hostMoves [.idle k] = List.replicate k (.idle []) := by
  simp [hostMoves, addDirective]

/-- In an idle cycle without a write only `WAVE` grows (R138). -/
theorem steps_idle {s : State} (hst : s.st = .idle) (hq : s.quietInputs) (k : Nat) :
    steps k { s with host := List.replicate k (.idle []) } = .next { s with
      host := [], wave := s.wave ++ List.replicate k (s.port, s.ddr)
      resp := if k = 0 then s.resp else none } := by
  induction k generalizing s with
  | zero => simp [steps]
  | succ k ih =>
    rw [List.replicate_succ, steps_succ_of_next (step_idle_quiet hst hq)]
    refine (ih (s := { s with wave := s.wave ++ [(s.port, s.ddr)], resp := none }) hst hq).trans ?_
    simp [List.replicate_succ]

/-- Settles O30: each directive's moves, and what their cycles do. -/
theorem directivesAreCarriedOut : Obligations.DirectivesAreCarriedOut := by
  intro s hst hq
  refine ⟨fun a bs hfits => ?_, fun k => ?_, fun v => ?_⟩
  · refine ⟨_, step_idle_quiet hst hq, State.hostWrites_host _ _, State.hostWrites_poke_bytes hfits _,
      fun x hx => State.hostWrites_poke_outside hfits hx _⟩
  · rw [hostMoves_idle, steps_idle hst hq]
  · exact step_idle_quiet hst hq

end Sys2Proof.Machine

/-! ### Refusals -/

namespace Sys2Proof.Machine

/-- A legal mask is the mask of a single pin (R85 (b)). -/
theorem oneHot_iff (m : Port) : oneHot m = true ↔ ∃ p : Fin 8, m = 1#8 <<< p.val := by
  refine ⟨?_, fun ⟨p, hp⟩ => hp ▸ oneHot_pin p⟩
  revert m
  decide

/-- A frame command is refused while busy before anything else is looked at; the three refusals below are in the order
of R184, each with the earlier checks passed (R85). -/
theorem acceptFrame_busy {count : Count} {a : Addr} {n : ByteCount} {m : Port} {h : Nat} {s : State}
    (hb : s.busy = true) : acceptFrame count a n m h s = .refused .commandWhileBusy := if_pos hb

section
variable {count : Count} {a : Addr} {n : ByteCount} {m : Port} {h : Nat} {s : State} (hst : s.st = .idle)
include hst

theorem acceptFrame_zeroCount (hc : count = 0#16) : acceptFrame count a n m h s = .refused .zeroCount := by
  simp [acceptFrame, State.busy_eq_false.2 hst, hc]

theorem acceptFrame_badMask (hc : count ≠ 0#16) (hm : oneHot m = false) :
    acceptFrame count a n m h s = .refused .badMask := by
  simp [acceptFrame, State.busy_eq_false.2 hst, hc, hm]

theorem acceptFrame_notAdmitted (hc : count ≠ 0#16) (hm : oneHot m = true) (ha : admitted s.mem a n = false) :
    acceptFrame count a n m h s = .refused .bufferNotAdmitted := by
  simp [acceptFrame, State.busy_eq_false.2 hst, hc, hm, ha]

end

/-- A buffer that wraps or has an address outside the launch memory is not admitted (R68). -/
theorem admitted_eq_false {m : Memory} {a : Addr} {n : ByteCount}
    (h : 65536 < a.toNat + n.toNat ∨ ∃ k < n.toNat, m.read (a.toNat + k) = none) : admitted m a n = false := by
  refine Bool.eq_false_iff.2 fun hadm => ?_
  obtain ⟨hfits, hread⟩ := (admitted_iff m a n).1 hadm
  obtain hwrap | ⟨k, hk, hnone⟩ := h
  · omega
  · obtain ⟨b, hb⟩ := hread k hk
    rw [hnone] at hb
    cases hb

/-- Settles O34: `CORRECT` by its one check, a frame command by the checks of its acceptance. -/
theorem illegalCommandsAreRefusedInOrder : Obligations.IllegalCommandsAreRefusedInOrder := by
  refine ⟨fun idx s => ⟨fun hb => if_pos hb, fun hb => ?_⟩, fun i o s hop => ?_⟩
  · exact ⟨_, execCorrect_next.2 ⟨State.busy_eq_false.1 hb, rfl⟩⟩
  · obtain ⟨n, hn, hexec⟩ := exec_frameOperands hop
    rw [hexec]
    refine ⟨acceptFrame_busy, fun hst hc => acceptFrame_zeroCount hst hc, fun hst hc hm => ?_,
      fun hst hc hm hbuf => ?_⟩
    · refine acceptFrame_badMask hst hc (Bool.eq_false_iff.2 fun h1 => ?_)
      obtain ⟨p, hp⟩ := (oneHot_iff o.mask).1 h1
      exact hm p hp
    · rw [← hn] at hbuf
      exact acceptFrame_notAdmitted hst hc ((oneHot_iff o.mask).2 hm) (admitted_eq_false hbuf)

/-- An admitted buffer does not wrap (R68). -/
theorem fits_of_admitted {m : Memory} {a : Addr} {n : ByteCount} (h : admitted m a n = true) : fits a n = true :=
  decide_eq_true ((admitted_iff m a n).1 h).1

/-- An instruction that runs is well formed: acceptance makes the checks of R85 that its word decides (R131). -/
theorem wf_of_exec_next {i : Instr} {s t : State} (e : exec i s = .next t) : i.wf = true := by
  cases i with
  | transmit a n m =>
    obtain ⟨-, hc, hm, ha, -⟩ := acceptFrame_next.1 e
    simp [Instr.wf, hc, hm, fits_of_admitted ha]
  | showRgb a n =>
    obtain ⟨-, hc, -, ha, -⟩ := acceptFrame_next.1 e
    simp [Instr.wf, hc, fits_of_admitted ha]
  | showRgbw a n =>
    obtain ⟨-, hc, -, ha, -⟩ := acceptFrame_next.1 e
    simp [Instr.wf, hc, fits_of_admitted ha]
  | correct => rfl
  | sym0 => rfl
  | sym1 => rfl
  | reset => rfl

/-- Settles O37, the contrapositive. -/
theorem illFormedCommandsNeverRun : Obligations.IllFormedCommandsNeverRun := by
  intro i s t hwf e
  rw [wf_of_exec_next e] at hwf
  cases hwf

/-! ### The shape of a bit on the pin -/

/-- What holds in cycle `k` of the bit that begins in `s`: the invariant, quiet inputs, and the bit's own registers. -/
structure State.InBit (s : State) (k : Nat) (u : State) : Prop where
  inv : u.Inv
  quiet : u.quietInputs
  st : u.st = .send
  cyc : u.cyc = k
  sr : u.sr = s.sr
  mask : u.mask = s.mask
  build : u.build = s.build

/-- A step inside a bit leads to the bit's next cycle (R133). -/
theorem State.InBit.advance {s u : State} {k : Nat} (h : s.InBit k u) (hk : k + 1 < s.cfg.nTotal) :
    ∃ v, step u = .next v ∧ s.InBit (k + 1) v := by
  have hcyc : u.cyc + 1 < u.cfg.nTotal := by rw [h.cyc, State.cfg, h.build]; exact hk
  have e : step u = .next (u.sample.insideBit u.sr.msb) :=
    (step_send_quiet h.st h.quiet).trans (sendCycle_next.2 (.inl ⟨hcyc, rfl⟩))
  exact ⟨_, e, stepKeepsTheInvariant _ _ h.inv e, State.quietInputs_sample h.quiet, h.st,
    congrArg (· + 1) h.cyc, h.sr, h.mask, h.build⟩

/-- A bit runs through its cycles. -/
theorem State.InBit.run {s : State} (h : s.InBit 0 s) {k : Nat} (hk : k < s.cfg.nTotal) :
    ∃ u, steps k s = .next u ∧ s.InBit k u := by
  induction k with
  | zero => exact ⟨s, rfl, h⟩
  | succ k ih =>
    obtain ⟨u, hu, hin⟩ := ih (Nat.lt_of_succ_lt hk)
    obtain ⟨v, hv, hout⟩ := hin.advance hk
    exact ⟨v, (steps_succ_end hu).trans hv, hout⟩

/-- Settles O45: the masked pin follows the level law of the invariant in every cycle of the bit. -/
theorem bitPeriodShowsTheSymbolShape : Obligations.BitPeriodShowsTheSymbolShape := by
  intro s k hinv hq hst hcyc hk
  obtain ⟨u, hu, h⟩ := State.InBit.run ⟨hinv, hq, hst, hcyc, rfl, rfl, rfl⟩ hk
  obtain ⟨-, -, hsend, -⟩ := h.inv
  obtain ⟨-, -, -, -, hlevel, -⟩ := hsend h.st
  refine ⟨u, hu, h.st, h.cyc, h.sr, h.mask, ?_⟩
  rw [State.levelLaw, State.cfg, h.mask, h.cyc, h.sr, h.build] at hlevel
  exact hlevel

end Sys2Proof.Machine

/-! ### The pulses of a frame -/

namespace Sys2Proof.Machine

/-- A high phase has no further edge than its first. -/
theorem risingEdges_true_replicate (k : Nat) (rest : List Bool) :
    risingEdges true (List.replicate k true ++ rest) = risingEdges true rest := by
  induction k with
  | zero => rfl
  | succ k ih => simpa [List.replicate_succ, risingEdges] using ih

/-- A low phase has no rising edge. -/
theorem risingEdges_replicate_false (before : Bool) (k : Nat) (rest : List Bool) :
    risingEdges before (List.replicate (k + 1) false ++ rest) = risingEdges false rest := by
  induction k generalizing before with
  | zero => simp [risingEdges]
  | succ k ih =>
    rw [List.replicate_succ, List.cons_append, risingEdges, ih]
    simp

/-- A bit period is a high phase and a low phase, neither of them empty (R89). -/
theorem symLevels_eq_phases (c : Config) (b : Bool) :
    ∃ high low, symLevels c b = List.replicate (high + 1) true ++ List.replicate (low + 1) false := by
  have hpos := c.highCycles_pos b
  have hlt := c.highCycles_lt b
  refine ⟨c.highCycles b - 1, c.nTotal - c.highCycles b - 1, ?_⟩
  rw [symLevels, Nat.sub_add_cancel hpos, Nat.sub_add_cancel (by omega)]

/-- A bit period on a low pin has one rising edge and ends low (R89). -/
theorem risingEdges_symLevels_append (c : Config) (b : Bool) (rest : List Bool) :
    risingEdges false (symLevels c b ++ rest) = risingEdges false rest + 1 := by
  obtain ⟨high, low, h⟩ := symLevels_eq_phases c b
  rw [h, List.append_assoc, List.replicate_succ, List.cons_append, risingEdges, risingEdges_true_replicate,
    risingEdges_replicate_false]
  simp [Nat.add_comm]

theorem risingEdges_flatMap_symLevels (c : Config) (bits : List Bool) :
    risingEdges false (bits.flatMap (symLevels c)) = bits.length := by
  induction bits with
  | nil => rfl
  | cons b bits ih => rw [List.flatMap_cons, risingEdges_symLevels_append, ih, List.length_cons]

/-- The last level of a list of bit periods is low. -/
theorem flatMap_symLevels_getLastD (c : Config) (bits : List Bool) :
    (bits.flatMap (symLevels c)).getLastD false = false := by
  have hlast (b : Bool) : (symLevels c b).getLast? = some false := by
    obtain ⟨high, low, h⟩ := symLevels_eq_phases c b
    simp [h, List.getLast?_append, List.getLast?_replicate]
  rw [List.getLastD_eq_getLast?, List.getLast?_flatMap]
  cases bits.reverse with
  | nil => rfl
  | cons b bits => simp [hlast]

/-- A frame has eight bits for each byte (R88). -/
theorem frameBits_length (c : Config) (bytes : List Byte) : (frameBits c bytes).length = 8 * bytes.length := by
  have hbyte (b : Byte) : (sendOrder b).length = 8 := rfl
  simp [frameBits, List.length_flatMap, hbyte, Nat.mul_comm]

/-- Settles O49: a frame is one bit period for each of its eight bits per byte. -/
theorem framesHaveEightPulsesPerByte : Obligations.FramesHaveEightPulsesPerByte := by
  refine fun c bytes => ⟨?_, ?_, flatMap_symLevels_getLastD c _⟩
  · rw [frameLevels, length_flatMap_symLevels, frameBits_length]
  · rw [frameLevels, risingEdges_flatMap_symLevels, frameBits_length]

end Sys2Proof.Machine

/-! ### Black and white frames -/

namespace Sys2Proof

/-- The ends of a build's dimming table (R101, L2 and L3). -/
theorem Build.dimAt_ends (b : Build) : b.cfg.dimAt 0#8 = 0#8 ∧ b.cfg.dimAt 255#8 = 255#8 := by
  obtain ⟨-, -, -, -, -, -, -, -, hdim, -⟩ := b.wf_parts
  have hlen := b.dim_length
  simp only [dimLaws, Bool.and_eq_true, beq_iff_eq] at hdim
  obtain ⟨⟨-, hzero⟩, hfull⟩ := hdim
  refine ⟨?_, hfull⟩
  rw [List.getD_eq_getElem _ _ (by omega)] at hzero
  exact (List.getD_eq_getElem _ _ (by omega)).trans hzero

/-- A frame of equal bytes whose corrected byte has eight equal bits (R87, R88). -/
theorem frameBits_replicate {c : Config} {b : Byte} {v : Bool} (h : sendOrder (c.dimAt b) = List.replicate 8 v)
    (n : Nat) : frameBits c (List.replicate n b) = List.replicate (8 * n) v := by
  induction n with
  | zero => rfl
  | succ n ih =>
    rw [List.replicate_succ, frameBits, List.flatMap_cons, h, ← frameBits, ih, List.replicate_append_replicate,
      Nat.mul_succ, Nat.add_comm]

/-- Settles O50: the table maps 0 to 0 and 255 to 255. -/
theorem blackFramesAreZerosAndWhiteFramesOnes : Obligations.BlackFramesAreZerosAndWhiteFramesOnes := by
  intro b n
  obtain ⟨hzero, hfull⟩ := b.dimAt_ends
  exact ⟨frameBits_replicate (by rw [hzero]; decide) n, frameBits_replicate (by rw [hfull]; decide) n⟩

end Sys2Proof

/-! ### The dimming table -/

namespace Sys2Proof

/-- The check of L1 walks the chain of neighbours (R101). -/
theorem nondecreasing_iff_isChain (d : List Byte) : nondecreasing d = true ↔ d.IsChain (· ≤ ·) := by
  induction d using nondecreasing.induct with
  | case1 a b rest ih =>
    rw [nondecreasing, Bool.and_eq_true, decide_eq_true_eq, ih, List.isChain_cons_cons]
  | case2 d h =>
    match d, h with
    | [], _ => exact iff_of_true rfl .nil
    | [a], _ => exact iff_of_true rfl (.singleton a)
    | a :: b :: rest, h => exact absurd rfl (h a b rest)

/-- A build's dimming table is monotone (R101, L1). -/
theorem Build.dimAt_le_dimAt (b : Build) {x y : Byte} (hxy : x ≤ y) : b.cfg.dimAt x ≤ b.cfg.dimAt y := by
  obtain ⟨-, -, -, -, -, -, -, -, hdim, -⟩ := b.wf_parts
  have hlen := b.dim_length
  simp only [dimLaws, Bool.and_eq_true] at hdim
  obtain ⟨⟨⟨-, hchain⟩, -⟩, -⟩ := hdim
  have hpairs : b.cfg.dim.Pairwise (· ≤ ·) := ((nondecreasing_iff_isChain _).1 hchain).pairwise
  have hx : x.toNat < b.cfg.dim.length := by omega
  have hy : y.toNat < b.cfg.dim.length := by omega
  rw [Config.dimAt, Config.dimAt, List.getD_eq_getElem _ _ hx, List.getD_eq_getElem _ _ hy]
  exact hpairs.rel_get_of_le (a := ⟨_, hx⟩) (b := ⟨_, hy⟩) hxy

end Sys2Proof

/-! ### The answers of `CORRECT` -/

namespace Sys2Proof.Machine

/-- Settles O32: idle is the one check of `CORRECT` (R100). -/
theorem correctAnswersTheTableEntry : Obligations.CorrectAnswersTheTableEntry :=
  fun _ _ hst => execCorrect_next.2 ⟨hst, rfl⟩

/-- Settles O33, with the table of the machine's build. -/
theorem correctFollowsTheTableLaws : Obligations.CorrectFollowsTheTableLaws := by
  intro s hst
  obtain ⟨hzero, hfull⟩ := s.build.dimAt_ends
  exact ⟨s.cfg.dimAt, fun idx => correctAnswersTheTableEntry idx s hst, fun _ _ => s.build.dimAt_le_dimAt,
    hzero, hfull⟩

/-! ### The build -/

/-- No instruction changes the build (R102). -/
theorem exec_build {i : Instr} {s t : State} (e : exec i s = .next t) : t.build = s.build := by
  obtain ⟨_, -, -, rfl⟩ | ⟨-, -, _, _, _, _, _, -, -, -, -, -, rfl⟩ | ⟨-, -, h⟩ | ⟨-, -, -, rfl⟩
    | ⟨-, -, rfl⟩ := exec_next e
  case inr.inr.inl => exact (sendCycle_frame h).build
  all_goals rfl

/-- A command is executed on the build of its machine. -/
theorem State.presents_build {s u : State} {w : CommandWord} (h : s.presents w u) : u.build = s.build := by
  obtain ⟨-, -, ⟨-, rfl⟩ | ⟨-, -, rfl⟩⟩ := h <;> rfl

/-- Settles O21: neither an instruction nor a host write touches the build. -/
theorem noStepChangesTheBuild : Obligations.NoStepChangesTheBuild := by
  intro s t e
  obtain ⟨w, i, u, hp, -, h⟩ | ⟨-, rest, ws, rfl⟩ | ⟨-, -, -, h⟩ | ⟨-, -, -, h⟩ := step_next e
  · exact (exec_build h).trans (State.presents_build hp)
  · exact State.hostWrites_build _ ws
  · exact (sendCycle_frame h).build
  · exact (holdCycle_frame h).build

end Sys2Proof.Machine

/-! ### The nearest cycle count -/

namespace Sys2Proof

/-- Settles O8: the floor division by `10^9` brackets `T * F_CLK + 5 * 10^8` (R111). -/
theorem cycIsTheNearestCycleCount : Obligations.CycIsTheNearestCycleCount := by
  intro c tNs n
  rw [Config.cyc, eq_comm, Nat.div_eq_iff (by decide)]
  omega

/-- Two times at least one clock cycle apart have different counts. -/
theorem Config.cyc_lt_cyc {c : Config} {t u : Nat} (h : t * c.fClk + 1000000000 ≤ u * c.fClk) :
    c.cyc t < c.cyc u := by
  unfold Config.cyc
  omega

/-! ### The cumulative counts and the clamps -/

/-- A clamp is inactive exactly if the nearest count of the window's end lies behind its start (R112 to R115). -/
theorem Config.clampsW1_eq_false {c : Config} : c.clampsW1 = false ↔ 1 ≤ c.cyc c.tZeroNs := by
  rw [Config.clampsW1, beq_eq_false_iff_ne]
  omega

theorem Config.clampsW2_eq_false {c : Config} : c.clampsW2 = false ↔ c.nZero < c.cyc c.tOneNs := by
  rw [Config.clampsW2, beq_eq_false_iff_ne, Config.nZero]
  omega

theorem Config.clampsW3_eq_false {c : Config} : c.clampsW3 = false ↔ c.nOne < c.cyc c.tTotalNs := by
  rw [Config.clampsW3, beq_eq_false_iff_ne, Config.nOne]
  omega

/-- A window whose clamp is inactive ends at the nearest count of its time, whatever the other clamps do. -/
theorem Config.nZero_eq_cyc {c : Config} (h : c.clampsW1 = false) : c.nZero = c.cyc c.tZeroNs :=
  max_eq_left (Config.clampsW1_eq_false.1 h)

theorem Config.nOne_eq_cyc {c : Config} (h : c.clampsW2 = false) : c.nOne = c.cyc c.tOneNs := by
  rw [Config.clampsW2_eq_false, Config.nZero] at h
  rw [Config.nOne, Config.w2]
  omega

theorem Config.nTotal_eq_cyc {c : Config} (h : c.clampsW3 = false) : c.nTotal = c.cyc c.tTotalNs := by
  rw [Config.clampsW3_eq_false, Config.nOne] at h
  rw [Config.nTotal, Config.w3]
  omega

/-- No clamp is active exactly if the nearest counts of the three times already increase from at least 1. -/
theorem Config.no_clamp_iff (c : Config) :
    (c.clampsW1 = false ∧ c.clampsW2 = false ∧ c.clampsW3 = false)
      ↔ 1 ≤ c.cyc c.tZeroNs ∧ c.cyc c.tZeroNs < c.cyc c.tOneNs ∧ c.cyc c.tOneNs < c.cyc c.tTotalNs := by
  constructor
  · rintro ⟨h1, h2, h3⟩
    rw [← Config.nZero_eq_cyc h1, ← Config.nOne_eq_cyc h2]
    exact ⟨c.w1_pos, Config.nOne_eq_cyc h2 ▸ Config.clampsW2_eq_false.1 h2, Config.clampsW3_eq_false.1 h3⟩
  · rintro ⟨hz, ho, ht⟩
    have h1 := Config.clampsW1_eq_false.2 hz
    have h2 : c.clampsW2 = false := Config.clampsW2_eq_false.2 (Config.nZero_eq_cyc h1 ▸ ho)
    exact ⟨h1, h2, Config.clampsW3_eq_false.2 (Config.nOne_eq_cyc h2 ▸ ht)⟩

/-- With the default times only `W3` can be clamped from 1_818_182 Hz on, where `T_ONE - T_ZERO` lasts a cycle. -/
theorem Config.clampsW1_clampsW2_of_defaultTimes {c : Config} (hd : c.defaultTimes) (hf : 1818182 ≤ c.fClk) :
    c.clampsW1 = false ∧ c.clampsW2 = false := by
  obtain ⟨hzero, hone, -⟩ := hd
  have h1 : c.clampsW1 = false := by
    rw [Config.clampsW1_eq_false, hzero, Config.cyc]
    omega
  refine ⟨h1, ?_⟩
  rw [Config.clampsW2_eq_false, Config.nZero_eq_cyc h1, hzero, hone]
  exact Config.cyc_lt_cyc (by omega)

/-- The clocks at which the counts of the default times fail to increase from 1 (R115). From 2_857_143 Hz on each of
the three windows lasts a cycle; below, the count of `T_ONE` is at most 3, and its value bounds the clock. -/
theorem Config.cyc_defaultTimes_increase (c : Config) :
    (1 ≤ c.cyc 350 ∧ c.cyc 350 < c.cyc 900 ∧ c.cyc 900 < c.cyc 1250)
      ↔ ¬ (c.fClk ≤ 1999999 ∨ (2777778 ≤ c.fClk ∧ c.fClk ≤ 2799999)) := by
  by_cases hfast : 2857143 ≤ c.fClk
  · have hzero : c.cyc 0 < c.cyc 350 := Config.cyc_lt_cyc (by omega)
    have hone : c.cyc 350 < c.cyc 900 := Config.cyc_lt_cyc (by omega)
    have htotal : c.cyc 900 < c.cyc 1250 := Config.cyc_lt_cyc (by omega)
    omega
  · simp only [Config.cyc]
    have hcount : (900 * c.fClk + 500000000) / 1000000000 ≤ 3 := by omega
    interval_cases h : (900 * c.fClk + 500000000) / 1000000000 <;> omega

/-- Where a clamp is active with the default times (R115). -/
theorem Config.clamp_active_iff_of_defaultTimes {c : Config} (hd : c.defaultTimes) :
    (c.clampsW1 = true ∨ c.clampsW2 = true ∨ c.clampsW3 = true)
      ↔ (c.fClk ≤ 1999999 ∨ (2777778 ≤ c.fClk ∧ c.fClk ≤ 2799999)) := by
  have h := c.no_clamp_iff
  obtain ⟨hzero, hone, htotal⟩ := hd
  rw [hzero, hone, htotal, c.cyc_defaultTimes_increase] at h
  rw [← not_iff_not, ← h]
  simp only [not_or, Bool.not_eq_true]

/-- Settles O9, from the windows' bounds and the equations of the unclamped counts. -/
theorem cumulativeCountsAndClamps : Obligations.CumulativeCountsAndClamps := by
  refine ⟨fun c => ⟨rfl, rfl, rfl, c.w1_pos, Nat.lt_add_of_pos_right c.w2_pos, Nat.lt_add_of_pos_right c.w3_pos⟩,
    fun c h1 h2 h3 => ⟨Config.nZero_eq_cyc h1, Config.nOne_eq_cyc h2, Config.nTotal_eq_cyc h3⟩,
    fun c _ hd => ⟨Config.clamp_active_iff_of_defaultTimes hd, Config.clampsW1_clampsW2_of_defaultTimes hd⟩⟩

/-! ### The diagnostic -/

/-- What each diagnostic says of `N_ZERO`, which Fatal compares first (R117 to R119). -/
theorem Config.diag_iff (c : Config) :
    (c.diag = .fatal ↔ c.tZeroFatalNs * c.fClk < c.nZero * 1000000000)
      ∧ (c.diag = .advisory ↔ ¬ c.tZeroFatalNs * c.fClk < c.nZero * 1000000000
          ∧ c.tZeroWarnNs * c.fClk ≤ c.nZero * 1000000000)
      ∧ (c.diag = .ok ↔ ¬ c.tZeroFatalNs * c.fClk < c.nZero * 1000000000
          ∧ ¬ c.tZeroWarnNs * c.fClk ≤ c.nZero * 1000000000) := by
  rw [Config.diag]
  by_cases hfatal : c.tZeroFatalNs * c.fClk < c.nZero * 1000000000
  · simp [hfatal]
  · by_cases hwarn : c.tZeroWarnNs * c.fClk ≤ c.nZero * 1000000000 <;> simp [hfatal, hwarn]

/-- `N_ZERO` of the default `T_ZERO`: 1, then 2, and at faster clocks at most half a cycle above 350 ns, which is too
short to reach either threshold. -/
theorem Config.nZero_cases_of_default {c : Config} (hzero : c.tZeroNs = 350) :
    (c.fClk ≤ 4285714 ∧ c.nZero = 1) ∨ (4285715 ≤ c.fClk ∧ c.fClk ≤ 7142857 ∧ c.nZero = 2)
      ∨ (7142858 ≤ c.fClk ∧ c.nZero * 1000000000 ≤ 350 * c.fClk + 500000000) := by
  rw [Config.nZero, Config.w1, hzero, Config.cyc]
  omega

/-- The defaults are Fatal up to 1_818_181 Hz (R120). -/
theorem Config.diag_eq_fatal_of_defaults {c : Config} (hd : c.defaultTimes) (ht : c.defaultThresholds) :
    c.diag = .fatal ↔ c.fClk ≤ 1818181 := by
  obtain ⟨hfatal, -, -⟩ := c.diag_iff
  rw [hfatal, ht.1]
  obtain ⟨_, hn⟩ | ⟨_, _, hn⟩ | ⟨_, hn⟩ := Config.nZero_cases_of_default hd.1 <;> omega

/-- The defaults are Advisory in two closed bands, one for `N_ZERO = 1` and one for `N_ZERO = 2` (R120). -/
theorem Config.diag_eq_advisory_of_defaults {c : Config} (hd : c.defaultTimes) (ht : c.defaultThresholds) :
    c.diag = .advisory ↔
      (1818182 ≤ c.fClk ∧ c.fClk ≤ 2222222) ∨ (4285715 ≤ c.fClk ∧ c.fClk ≤ 4444444) := by
  obtain ⟨-, hadvisory, -⟩ := c.diag_iff
  rw [hadvisory, ht.1, ht.2]
  obtain ⟨_, hn⟩ | ⟨_, _, hn⟩ | ⟨_, hn⟩ := Config.nZero_cases_of_default hd.1 <;> omega

/-- A realised time is the exact duration of its cycles (R116). -/
theorem Config.realisedNs_mul {c : Config} (hf : 0 < c.fClk) (n : Nat) :
    c.realisedNs n * c.fClk = n * 1000000000 := by
  rw [Config.realisedNs, Rat.mkRat_eq_div, div_mul_cancel₀ _ (Nat.cast_ne_zero.2 hf.ne')]
  norm_cast

/-- A build's report is that of its diagnostic (R181, R182). -/
theorem Config.report_of_diag {c : Config} {d : Diag} (h : c.diag = d) :
    c.report = d.report (c.fClk, c.nZero, c.realisedNs c.nZero) := by
  rw [Config.report, h]

/-- Settles O10, from the values of `N_ZERO` at the default `T_ZERO`. -/
theorem diagnosticBandsOfTheDefaults : Obligations.DiagnosticBandsOfTheDefaults := by
  refine ⟨Config.diag_iff,
    fun c hd ht => ⟨Config.diag_eq_fatal_of_defaults hd ht, Config.diag_eq_advisory_of_defaults hd ht⟩,
    fun c => ⟨Config.report_of_diag, Config.report_of_diag,
      fun h => ⟨_, Config.report_of_diag h, fun hf => Config.realisedNs_mul hf _⟩⟩⟩

/-! ### The hold lengths -/

/-- The ceiling of `a / 10^6` is the least number of millions that reaches `a` (R121). -/
theorem ceilMillion_le_iff {a n : Nat} : ceilMillion a ≤ n ↔ a ≤ n * 1000000 := by
  unfold ceilMillion
  omega

/-- A build with the default times and thresholds is not Fatal, so its clock is at least 1_818_182 Hz (R120). -/
theorem Build.fClk_ge_of_defaults {b : Build} (hd : b.cfg.defaultTimes) (ht : b.cfg.defaultThresholds) :
    1818182 ≤ b.cfg.fClk := by
  obtain ⟨-, -, -, -, -, -, -, -, -, hdiag⟩ := b.wf_parts
  rw [Ne, Config.diag_eq_fatal_of_defaults hd ht] at hdiag
  omega

/-- An idle time of at least 50 microseconds takes at least 91 cycles at 1_818_182 Hz or more (R11, R121). -/
theorem ninetyOne_le_ceilMillion {t f : Nat} (ht : 50 ≤ t) (hf : 1818182 ≤ f) : 91 ≤ ceilMillion (t * f) := by
  have hmul : 50 * 1818182 ≤ t * f := Nat.mul_le_mul ht hf
  exact (lt_iff_lt_of_le_iff_le ceilMillion_le_iff).2 (by omega)

/-- Settles O11: the shortest idle time of a build at the slowest clock that is not Fatal takes 91 cycles. -/
theorem holdLengthsCoverTheIdleTime : Obligations.HoldLengthsCoverTheIdleTime := by
  refine ⟨fun _ _ => ⟨ceilMillion_le_iff, ceilMillion_le_iff⟩, fun b f hd ht => ?_⟩
  obtain ⟨-, -, -, -, hrgb, -, hrgbw, -⟩ := b.wf_parts
  have hf := Build.fClk_ge_of_defaults hd ht
  cases f with
  | rgb => exact ninetyOne_le_ceilMillion hrgb hf
  | rgbw => exact ninetyOne_le_ceilMillion hrgbw hf

end Sys2Proof

/-! ### The command of the host and its frame -/

namespace Sys2Proof.Machine

/-- Settles O46: the whole-command law, with the mask of a single pin. -/
theorem frameCommandsRunToTheirEndState : Obligations.FrameCommandsRunToTheirEndState :=
  fun _ _ _ _ _ _ hst hq hhost hdec hop hcount hmask hfits hbytes =>
    steps_frameCommand hst hq hhost hdec hop hcount ((oneHot_iff _).2 hmask) hfits hbytes

/-- A frame command that passes the checks of R131 is accepted, `n` being its byte count (R132). -/
theorem exec_frameCommand {i : Instr} {o : FrameOperands} {s : State} (hop : i.frameOperands s.cfg = some o)
    (hst : s.st = .idle) (hcount : o.count ≠ 0#16) (hmask : ∃ p : Fin 8, o.mask = 1#8 <<< p.val)
    (hfits : o.addr.toNat + o.bytes ≤ 65536)
    (hread : ∀ k < o.bytes, (s.mem.read (o.addr.toNat + k)).isSome = true) :
    ∃ (n : ByteCount) (b : Byte), n.toNat = o.bytes ∧ admitted s.mem o.addr n = true ∧
      s.mem.read o.addr.toNat = some b ∧ exec i s = .next (s.latchFrame o.addr n o.mask o.hold b) := by
  obtain ⟨n, hn, hexec⟩ := exec_frameOperands hop
  have hadm : admitted s.mem o.addr n = true :=
    (admitted_iff _ _ _).2 ⟨by omega, fun k hk => Option.isSome_iff_exists.1 (hread k (by omega))⟩
  obtain ⟨b, hb⟩ := Option.isSome_iff_exists.1 (hread 0 (frameOperands_bytes_pos hop hcount))
  exact ⟨n, b, hn, hadm, hb,
    hexec.trans (acceptFrame_next.2 ⟨hst, hcount, (oneHot_iff _).2 hmask, hadm, b, hb, rfl⟩)⟩

/-- Settles O35: the latched registers, their increments read as numbers. -/
theorem admittedFrameCommandsAreAccepted : Obligations.AdmittedFrameCommandsAreAccepted := by
  intro i o s hop hst hcount hmask hfits hread
  obtain ⟨n, b, hn, -, hb, hexec⟩ := exec_frameCommand hop hst hcount hmask hfits hread
  have hpos := frameOperands_bytes_pos hop hcount
  have hptr : o.addr + 1#16 = BitVec.ofNat 16 (o.addr.toNat + 1) := by bv_omega
  have hcnt : n - 1#18 = BitVec.ofNat 18 (o.bytes - 1) := by bv_omega
  refine ⟨b, hb, ?_⟩
  rw [hexec, ← hptr, ← hcnt]
  rfl

/-! ### The cycles of a symbol -/

/-- The symbol the wire carries is one `SEND` cycle of the bit in `SR[7]` (R88). -/
theorem exec_carried {i : Instr} {s : State} (hst : s.st = .send)
    (hi : i = .sym0 ∧ s.sr.msb = false ∨ i = .sym1 ∧ s.sr.msb = true) : exec i s = sendCycle s.sr.msb s := by
  have hsymbol : i = s.symbol := by
    obtain ⟨rfl, hb⟩ | ⟨rfl, hb⟩ := hi <;> exact (State.symbol_of_msb hb).symm
  rw [hsymbol, exec_symbol hst]

/-- Settles O38: the pin falls at the end of the bit's own high phase, and at the end of `W2`. -/
theorem symbolsCountTheirWindows : Obligations.SymbolsCountTheirWindows := by
  intro s hst hcyc
  refine ⟨fun hb => ?_, fun hb => ?_⟩
  · rw [exec_carried hst (.inl ⟨rfl, hb⟩), sendCycle_next.2 (.inl ⟨hcyc, rfl⟩)]
    simp only [State.insideBit, State.falls_eq_true, hb, Config.highCycles, Bool.false_eq_true, if_false]
  · rw [exec_carried hst (.inr ⟨rfl, hb⟩), sendCycle_next.2 (.inl ⟨hcyc, rfl⟩)]
    simp only [State.insideBit, State.falls_eq_true, hb, Config.highCycles, if_true, or_self]

/-- Settles O39: the shift and the count of `State.nextBit`, as numbers. -/
theorem symbolsEndABitInsideAByte : Obligations.SymbolsEndABitInsideAByte := by
  intro s i hst hcyc hbit hi
  have hsr : s.sr <<< 1 = BitVec.ofNat 8 (2 * s.sr.toNat) := by bv_omega
  have hbitn : s.bitn - 1#3 = BitVec.ofNat 3 (s.bitn.toNat - 1) := by bv_omega
  rw [exec_carried hst hi, sendCycle_next.2 (.inr (.inl ⟨hcyc, hbit, rfl⟩)), ← hsr, ← hbitn]
  rfl

/-- Settles O40: the pointer and the count of `State.nextByte`, as numbers. -/
theorem symbolsLoadTheNextByte : Obligations.SymbolsLoadTheNextByte := by
  intro s i b hst hcyc hbit hcnt hread hi
  have hptr : s.ptr + 1#16 = BitVec.ofNat 16 (s.ptr.toNat + 1) := by bv_omega
  have hcnt' : s.cnt - 1#18 = BitVec.ofNat 18 (s.cnt.toNat - 1) := by bv_omega
  rw [exec_carried hst hi, sendCycle_next.2 (.inr (.inr (.inl ⟨hcyc, hbit, hcnt, b, hread, rfl⟩))), ← hptr, ← hcnt']
  rfl

/-- Settles O41: `State.endFrame`, without and with a hold. -/
theorem symbolsEndTheFrame : Obligations.SymbolsEndTheFrame := by
  intro s i hst hcyc hbit hcnt hi
  rw [exec_carried hst hi, sendCycle_next.2 (.inr (.inr (.inr ⟨hcyc, hbit, hcnt, rfl⟩)))]
  refine ⟨fun h => ?_, fun h => ?_⟩
  · simp only [State.endFrame, State.restoreInterrupts, if_pos h]
  · simp only [State.endFrame, State.restoreInterrupts, if_neg h]

/-- A `RESET` cycle of a hold with cycles to run is its hold step (R137). -/
theorem exec_reset_hold {s : State} (hst : s.st = .hold) (hr : s.rcnt ≠ 0) : exec .reset s = .next s.holdStep :=
  execReset_next.2 (.inl ⟨hst, holdCycle_next.2 ⟨hr, rfl⟩⟩)

/-- A `RESET` cycle the host lets pass while idle (R138). -/
theorem exec_reset_idle {s : State} (hst : s.st = .idle) : exec .reset s = .next s :=
  execReset_next.2 (.inr ⟨hst, rfl⟩)

/-- Settles O42: the hold step with one cycle left and with more, and the idle cycle. -/
theorem resetSymbolCountsTheHold : Obligations.ResetSymbolCountsTheHold := by
  refine fun s => ⟨fun hst hr => ?_, fun hst hr => ?_, exec_reset_idle⟩
  · rw [exec_reset_hold hst (by omega), State.holdStep, hr]
    rfl
  · rw [exec_reset_hold hst (by omega), State.holdStep, if_neg (by omega), hst]

/-! ### An idle cycle -/

/-- An idle cycle of a host that has no more moves (R138). -/
theorem step_idle_nil {s : State} (hst : s.st = .idle) (hr : s.drive.rst = false) (hc : s.drive.cmd = none)
    (hh : s.host = []) : step s = .next s.sample := by
  simp only [step, fetch, hr, hst, idleCycle, hc, State.sample_host, hh]
  rfl

/-- Settles O14: the cycle is sampled, and a host write touches no engine register. -/
theorem idleCycleKeepsTheEngineRegisters : Obligations.IdleCycleKeepsTheEngineRegisters := by
  refine fun s hst hr hc => ⟨step_idle_nil hst hr hc, fun ws rest hh => ⟨_, step_idle hst hr hc hh, rfl, ?_⟩⟩
  simp only [State.hostWrites_st, State.hostWrites_sr, State.hostWrites_bitn, State.hostWrites_cyc,
    State.hostWrites_ptr, State.hostWrites_cnt, State.hostWrites_mask, State.hostWrites_holdn,
    State.hostWrites_rcnt, State.hostWrites_ieSave]
  refine ⟨hst, rfl, rfl, rfl, rfl, rfl, rfl, rfl, rfl, rfl, ?_⟩
  rintro rfl
  exact ⟨rfl, rfl, rfl, rfl⟩

end Sys2Proof.Machine

/-! ### The cycles a command has still to run -/

namespace Sys2Proof.Machine

/-- The bits of a frame that are not over yet, the current one among them. -/
def State.bitsLeft (s : State) : Nat := 8 * s.cnt.toNat + s.bitn.toNat + 1

/-- `State.position` and `State.remaining` in bits left: a frame of `n` bytes has `8 * n` bits. -/
theorem State.position_eq {s : State} {n : Nat} (h : s.bitsLeft ≤ 8 * n) :
    s.position n = (8 * n - s.bitsLeft) * s.cfg.nTotal + s.cyc := by
  rw [State.bitsLeft] at h ⊢
  rw [State.position, show (n - 1 - s.cnt.toNat) * 8 + (7 - s.bitn.toNat)
    = 8 * n - (8 * s.cnt.toNat + s.bitn.toNat + 1) by omega]

theorem State.remaining_send {s : State} (hst : s.st = .send) :
    s.remaining = (s.bitsLeft * s.cfg.nTotal - s.cyc) + s.holdn := by
  simp only [State.remaining, hst, State.bitsLeft]

theorem State.remaining_hold {s : State} (hst : s.st = .hold) : s.remaining = s.rcnt := by
  simp only [State.remaining, hst]

theorem State.remaining_idle {s : State} (hst : s.st = .idle) : s.remaining = 0 := by
  simp only [State.remaining, hst]

/-- What a `SEND` cycle counts: it is followed by the next cycle of the bit (R133), by the first cycle of the next bit
(R134, R135), or it is the last cycle of the last bit (R136). -/
theorem sendCycle_counts {b : Bool} {s t : State} (e : sendCycle b s = .next t) :
    (t.st = s.st ∧ t.bitsLeft = s.bitsLeft ∧ t.cyc = s.cyc + 1 ∧ s.cyc + 1 < s.cfg.nTotal)
      ∨ (t.st = s.st ∧ t.bitsLeft + 1 = s.bitsLeft ∧ t.cyc = 0 ∧ s.cyc + 1 = s.cfg.nTotal)
      ∨ (t = s.endFrame ∧ s.bitsLeft = 1 ∧ s.cyc + 1 = s.cfg.nTotal) := by
  obtain ⟨hcyc, rfl⟩ | ⟨hcyc, hbit, rfl⟩ | ⟨hcyc, hbit, hcnt, byte, -, rfl⟩ | ⟨hcyc, hbit, hcnt, rfl⟩ :=
    sendCycle_next.1 e
  · exact .inl ⟨rfl, rfl, rfl, hcyc⟩
  · refine .inr (.inl ⟨rfl, ?_, rfl, hcyc⟩)
    have hbitn : (s.bitn - 1#3).toNat + 1 = s.bitn.toNat := by bv_omega
    simp only [State.bitsLeft, State.nextBit_cnt, State.nextBit_bitn]
    omega
  · refine .inr (.inl ⟨rfl, ?_, rfl, hcyc⟩)
    have hcnt' : (s.cnt - 1#18).toNat + 1 = s.cnt.toNat := by bv_omega
    simp only [State.bitsLeft, State.nextByte_cnt, State.nextByte_bitn, hbit, BitVec.toNat_ofNat]
    omega
  · exact .inr (.inr ⟨rfl, by rw [State.bitsLeft, hbit, hcnt]; rfl, hcyc⟩)

/-- Settles O22: the next cycle of the bit, or the first cycle of the next bit. -/
theorem positionAdvancesByOne : Obligations.PositionAdvancesByOne := by
  intro s t n hst hn e ht
  have hle : s.bitsLeft ≤ 8 * n := by rw [State.bitsLeft]; omega
  have hcfg : t.cfg = s.cfg := congrArg Build.cfg (noStepChangesTheBuild s t e)
  obtain ⟨-, -, h⟩ := step_next_of_send hst e
  obtain ⟨-, hbits, hcyc, -⟩ | ⟨-, hbits, hcyc, hlast⟩ | ⟨rfl, -⟩ := sendCycle_counts h
  · rw [State.position_eq hle, State.position_eq (hbits.trans_le hle), hcfg, hbits, hcyc]
    rfl
  · have hbits : t.bitsLeft + 1 = s.bitsLeft := hbits
    have hnext : 8 * n - t.bitsLeft = 8 * n - s.bitsLeft + 1 := by omega
    rw [State.position_eq hle, State.position_eq (by omega), hcfg, hcyc, hnext, Nat.succ_mul, Nat.add_zero,
      Nat.add_assoc]
    exact congrArg _ hlast.symm
  · rw [State.endFrame_st] at ht
    split at ht <;> cases ht

/-- What the invariant says of the command that runs, with no other agent on the inputs: unlike `State.Inv` it says
nothing of an idle engine's memory. -/
structure State.Running (s : State) : Prop where
  quiet : s.quietInputs
  send : s.st = .send → s.sendInv
  hold : s.st = .hold → 1 ≤ s.rcnt ∧ s.rcnt ≤ s.holdn

theorem State.Inv.running {s : State} (h : s.Inv) (hq : s.quietInputs) : s.Running := by
  obtain ⟨-, -, hsend, hhold⟩ := h
  refine ⟨hq, hsend, fun hst => ?_⟩
  obtain ⟨hpos, hle, -⟩ := hhold hst
  exact ⟨hpos, hle⟩

theorem State.Running.of_idle {s : State} (hq : s.quietInputs) (hst : s.st = .idle) : s.Running :=
  ⟨hq, fun h => (by rw [hst] at h; cases h), fun h => (by rw [hst] at h; cases h)⟩

theorem State.Running.of_send {s : State} (hq : s.quietInputs) (hst : s.st = .send) (h : s.sendInv) : s.Running :=
  ⟨hq, fun _ => h, fun h => (by rw [hst] at h; cases h)⟩

theorem State.Running.of_hold {s : State} (hq : s.quietInputs) (hst : s.st = .hold) (hpos : 1 ≤ s.rcnt)
    (hle : s.rcnt ≤ s.holdn) : s.Running :=
  ⟨hq, fun h => (by rw [hst] at h; cases h), fun _ => ⟨hpos, hle⟩⟩

theorem State.Running.sample {s : State} (h : s.Running) : s.sample.Running :=
  ⟨State.quietInputs_sample h.quiet, h.send, h.hold⟩

/-- A `SEND` cycle of an admitted frame has a next state (R183). -/
theorem State.sendInv.exists_sendCycle {s : State} (h : s.sendInv) (b : Bool) : ∃ t, sendCycle b s = .next t := by
  obtain ⟨hlt, -, -, -, -, -, hrest⟩ := h
  by_cases hcyc : s.cyc + 1 < s.cfg.nTotal
  · exact ⟨_, sendCycle_next.2 (.inl ⟨hcyc, rfl⟩)⟩
  have hlast : s.cyc + 1 = s.cfg.nTotal := by omega
  by_cases hbit : s.bitn = 0#3
  · by_cases hcnt : s.cnt = 0#18
    · exact ⟨_, sendCycle_next.2 (.inr (.inr (.inr ⟨hlast, hbit, hcnt, rfl⟩)))⟩
    · obtain ⟨byte, hbyte⟩ := admitted_first (hrest.resolve_left hcnt) hcnt
      exact ⟨_, sendCycle_next.2 (.inr (.inr (.inl ⟨hlast, hbit, hcnt, byte, hbyte, rfl⟩)))⟩
  · exact ⟨_, sendCycle_next.2 (.inr (.inl ⟨hlast, hbit, rfl⟩))⟩

/-- The end of a frame leaves nothing to run, or the whole hold (R136). -/
theorem State.endFrame_remaining (s : State) : s.endFrame.remaining = s.holdn := by
  by_cases h0 : s.holdn = 0
  · rw [State.remaining_idle (s := s.endFrame) (if_pos h0), h0]
  · rw [State.remaining_hold (s := s.endFrame) (if_neg h0)]
    exact if_neg h0

theorem State.Running.endFrame {s : State} (h : s.Running) : s.endFrame.Running := by
  by_cases h0 : s.holdn = 0
  · exact .of_idle h.quiet (if_pos h0)
  · have hr : s.endFrame.rcnt = s.holdn := if_neg h0
    exact .of_hold h.quiet (if_neg h0) (hr ▸ Nat.one_le_iff_ne_zero.2 h0) hr.le

/-- A `SEND` cycle of a running command leads to a running command (R133 to R136). -/
theorem State.Running.of_sendCycle {s t : State} (h : s.Running) (hst : s.st = .send)
    (e : sendCycle s.sr.msb s = .next t) : t.Running := by
  have hsend := h.send hst
  obtain ⟨hcyc, rfl⟩ | ⟨-, -, rfl⟩ | ⟨-, -, hcnt, byte, -, rfl⟩ | ⟨-, -, -, rfl⟩ := sendCycle_next.1 e
  · exact .of_send h.quiet hst (hsend.insideBit hcyc)
  · exact .of_send h.quiet hst hsend.nextBit
  · exact .of_send h.quiet hst (hsend.nextByte byte hcnt)
  · exact h.endFrame

/-- A `SEND` cycle is one of the cycles that remain. -/
theorem sendCycle_remaining {b : Bool} {s t : State} (hst : s.st = .send) (e : sendCycle b s = .next t) :
    t.remaining + 1 = s.remaining := by
  have hframe := sendCycle_frame e
  have hcfg : t.cfg = s.cfg := congrArg Build.cfg hframe.build
  have hperiod : s.bitsLeft * s.cfg.nTotal = (s.bitsLeft - 1) * s.cfg.nTotal + s.cfg.nTotal := by
    rw [← Nat.succ_mul]
    rfl
  obtain ⟨ht, hbits, hcyc, hlt⟩ | ⟨ht, hbits, hcyc, hlast⟩ | ⟨rfl, hbits, hlast⟩ := sendCycle_counts e
  · rw [State.remaining_send hst, State.remaining_send (ht.trans hst), hcfg, hframe.holdn, hbits, hcyc]
    omega
  · rw [State.remaining_send hst, State.remaining_send (ht.trans hst), hcfg, hframe.holdn, hcyc, hperiod, ← hbits,
      Nat.add_sub_cancel]
    omega
  · rw [State.remaining_send hst, State.endFrame_remaining, hbits, ← hlast]
    omega

/-- A `HOLD` cycle is one of the cycles that remain, and leads to a running command (R137). -/
theorem State.Running.holdStep {s : State} (h : s.Running) (hst : s.st = .hold) :
    s.holdStep.Running ∧ s.holdStep.remaining + 1 = s.remaining := by
  obtain ⟨hpos, hle⟩ := h.hold hst
  rw [State.remaining_hold hst]
  by_cases h0 : s.rcnt - 1 = 0
  · have ht : s.holdStep.st = .idle := if_pos h0
    refine ⟨.of_idle h.quiet ht, ?_⟩
    rw [State.remaining_idle ht]
    omega
  · have ht : s.holdStep.st = .hold := if_neg h0
    refine ⟨.of_hold h.quiet ht (Nat.one_le_iff_ne_zero.2 h0) ((Nat.sub_le _ _).trans hle), ?_⟩
    rw [State.remaining_hold ht]
    exact Nat.sub_add_cancel hpos

/-- A busy engine that runs a command steps, and one cycle less remains. -/
theorem State.Running.exists_step {s : State} (h : s.Running) (hb : s.busy = true) :
    ∃ t, step s = .next t ∧ t.Running ∧ t.remaining + 1 = s.remaining := by
  have hd := State.quietInputs_drive h.quiet
  obtain hst | hst := State.busy_eq_true.1 hb
  · obtain ⟨t, e⟩ := (h.sample.send hst).exists_sendCycle s.sr.msb
    exact ⟨t, (step_send_quiet hst h.quiet).trans e, h.sample.of_sendCycle hst e,
      sendCycle_remaining (s := s.sample) hst e⟩
  · obtain ⟨hpos, -⟩ := h.hold hst
    have e : holdCycle s.sample = .next s.sample.holdStep := holdCycle_next.2 ⟨Nat.one_le_iff_ne_zero.1 hpos, rfl⟩
    exact ⟨_, (step_hold hst (by rw [hd]) (by rw [hd])).trans e, h.sample.holdStep hst⟩

/-- While a frame is sent more cycles remain than its hold has; while it is held at least one, and no more. -/
theorem State.Running.holdn_lt_remaining {s : State} (h : s.Running) (hst : s.st = .send) :
    s.holdn < s.remaining := by
  obtain ⟨hlt, -⟩ := h.send hst
  have hbits : s.cfg.nTotal ≤ s.bitsLeft * s.cfg.nTotal := Nat.le_mul_of_pos_left _ (Nat.succ_pos _)
  rw [State.remaining_send hst]
  omega

theorem State.Running.remaining_le_holdn {s : State} (h : s.Running) (hst : s.st = .hold) :
    1 ≤ s.remaining ∧ s.remaining ≤ s.holdn := by
  rw [State.remaining_hold hst]
  exact h.hold hst

/-- The engine is busy exactly while cycles remain. -/
theorem State.Running.busy_iff {s : State} (h : s.Running) : s.busy = true ↔ 0 < s.remaining := by
  cases hst : s.st with
  | idle => simp [State.busy, hst, State.remaining_idle hst]
  | send => exact iff_of_true (State.busy_eq_true.2 (.inl hst)) (Nat.zero_lt_of_lt (h.holdn_lt_remaining hst))
  | hold => exact iff_of_true (State.busy_eq_true.2 (.inr hst)) (h.remaining_le_holdn hst).1

/-- A running command runs through the cycles that remain; what busy steps keep holds in each of them. -/
theorem State.Running.run {P : State → Prop} (hP : ∀ u v, u.busy = true → step u = .next v → P u → P v) {s : State}
    (h : s.Running) (hs : P s) {k : Nat} (hk : k ≤ s.remaining) :
    ∃ u, steps k s = .next u ∧ u.Running ∧ P u ∧ u.remaining + k = s.remaining := by
  induction k with
  | zero => exact ⟨s, rfl, h, hs, rfl⟩
  | succ k ih =>
    obtain ⟨u, hu, hrun, hPu, hrem⟩ := ih (Nat.le_of_succ_le hk)
    have hb : u.busy = true := hrun.busy_iff.2 (by omega)
    obtain ⟨v, hv, hrun', hrem'⟩ := hrun.exists_step hb
    exact ⟨v, (steps_succ_end hu).trans hv, hrun', hP u v hb hv hPu, by omega⟩

/-- Settles O52: after `k` steps `k` cycles less remain, and the engine is busy exactly while cycles remain. -/
theorem everyCommandEndsAfterItsCycles : Obligations.EveryCommandEndsAfterItsCycles := by
  intro s hinv hq hb
  have hrun {k : Nat} (hk : k ≤ s.remaining) :=
    (hinv.running hq).run (P := fun _ => True) (fun _ _ _ _ => id) trivial hk
  refine ⟨?_, fun k hk => ?_⟩
  · obtain ⟨t, ht, hend, -, hrem⟩ := hrun (Nat.le_refl _)
    have hnone : ¬ t.busy = true := by rw [hend.busy_iff]; omega
    exact ⟨t, ht, State.busy_eq_false.1 (Bool.eq_false_iff.2 hnone)⟩
  · obtain ⟨u, hu, hbusy, -, hrem⟩ := hrun hk.le
    exact ⟨u, hu, hbusy.busy_iff.2 (by omega)⟩

/-! ### The interrupt enable during a command -/

/-- The command that runs has the hold length `h`, and `IE` was `v` before it; in the hold it is `v` again. -/
structure State.Holds (h : Nat) (v : Bool) (s : State) : Prop where
  holdn : s.holdn = h
  ieSave : s.ieSave = v
  ie : s.st = .hold → s.ie = v

/-- A busy step keeps what acceptance latched; `IE` is restored where the hold begins and kept in it (R136, R137). -/
theorem State.Holds.of_step {h : Nat} {v : Bool} {s t : State} (hb : s.busy = true) (e : step s = .next t)
    (hs : s.Holds h v) : t.Holds h v := by
  obtain ⟨-, -, -, -, -, hholdn, hieSave, -⟩ := busyStepsTouchOnlyTheMaskedPins s t hb e
  obtain ⟨-, hleave, hhold⟩ := leavingSendRestoresTheInterruptEnable s t e
  refine ⟨hholdn.trans hs.holdn, hieSave.trans hs.ieSave, fun ht => ?_⟩
  obtain hst | hst := State.busy_eq_true.1 hb
  · exact (hleave hst (by rw [ht]; decide)).trans hs.ieSave
  · exact (hhold hst).trans (hs.ie hst)

/-- The hold length of a frame command is one of the three of R28. -/
theorem frameOperands_hold {c : Config} {i : Instr} {o : FrameOperands} (h : i.frameOperands c = some o) :
    o.hold = 0 ∨ o.hold = c.nResetRgb ∨ o.hold = c.nResetRgbw := by
  cases i with
  | transmit => cases h; exact .inl rfl
  | showRgb => cases h; exact .inr (.inl rfl)
  | showRgbw => cases h; exact .inr (.inr rfl)
  | correct => cases h
  | sym0 => cases h
  | sym1 => cases h
  | reset => cases h

/-- Acceptance leaves all the bits of the frame, and its hold, to run (R132). -/
theorem State.latchFrame_remaining {s : State} {a : Addr} {n : ByteCount} {m : Port} {h : Nat} {b : Byte}
    (hn : n ≠ 0#18) : (s.latchFrame a n m h b).remaining = 8 * n.toNat * s.cfg.nTotal + h := by
  have hbits : (s.latchFrame a n m h b).bitsLeft = 8 * n.toNat := by
    have hcnt : (n - 1#18).toNat + 1 = n.toNat := by bv_omega
    show 8 * (n - 1#18).toNat + 7 + 1 = 8 * n.toNat
    omega
  rw [State.remaining_send rfl, hbits]
  rfl

/-- The step that accepts an admitted frame command begins a running command of `8 * n * N_TOTAL` cycles and its hold
(R132). -/
theorem step_begins_frameCommand {s : State} {w : CommandWord} {rest : List HostMove} {i : Instr} {o : FrameOperands}
    (hst : s.st = .idle) (hq : s.quietInputs) (hhost : s.host = .command w :: rest) (hdec : decodeCommand w = .ok i)
    (hop : i.frameOperands s.cfg = some o) (hcount : o.count ≠ 0#16) (hmask : ∃ p : Fin 8, o.mask = 1#8 <<< p.val)
    (hfits : o.addr.toNat + o.bytes ≤ 65536)
    (hread : ∀ k < o.bytes, (s.mem.read (o.addr.toNat + k)).isSome = true) :
    ∃ t, step s = .next t ∧ t.Running ∧ t.Holds o.hold s.ie
      ∧ t.remaining = 8 * o.bytes * s.cfg.nTotal + o.hold := by
  have hd := State.quietInputs_drive hq
  have hp : s.presents w { s.sample with host := rest } :=
    ⟨hst, by rw [hd], .inr ⟨by rw [hd], by rw [hhost]; rfl, by rw [hhost]; rfl⟩⟩
  obtain ⟨n, b, hn, hadm, -, hexec⟩ :=
    exec_frameCommand (s := { s.sample with host := rest }) hop hst hcount hmask hfits hread
  have hn0 : n ≠ 0#18 := by
    have hpos := frameOperands_bytes_pos hop hcount
    bv_omega
  refine ⟨_, (step_presents hp hdec).trans hexec, .of_send (State.quietInputs_sample hq) rfl ?_,
    ⟨rfl, rfl, nofun⟩, hn ▸ State.latchFrame_remaining hn0⟩
  exact State.latchFrame_sendInv b hn0 ((oneHot_iff _).2 hmask) (frameOperands_hold hop) hadm

/-- Settles O47: `SEND` lasts while more cycles remain than the hold has. -/
theorem interruptsAreOffExactlyDuringTheFrame : Obligations.InterruptsAreOffExactlyDuringTheFrame := by
  intro s w rest i o hst hq hhost hdec hop hcount hmask hfits hread k hpos hk
  obtain ⟨t, haccept, hrun, hholds, hrem⟩ :=
    step_begins_frameCommand hst hq hhost hdec hop hcount hmask hfits hread
  obtain ⟨j, rfl⟩ : ∃ j, k = j + 1 := ⟨k - 1, by omega⟩
  obtain ⟨u, hu, hrun', ⟨hholdn, -, hie⟩, hleft⟩ := hrun.run (fun _ _ => State.Holds.of_step) hholds
    (k := j) (by omega)
  refine ⟨u, (steps_succ_of_next haccept).trans hu, ?_⟩
  cases hst' : u.st with
  | idle =>
    have hover := State.remaining_idle hst'
    omega
  | send =>
    have hlt := hrun'.holdn_lt_remaining hst'
    obtain ⟨-, hoff, -⟩ := hrun'.send hst'
    exact ⟨fun _ => ⟨rfl, hoff⟩, fun hlate => by omega⟩
  | hold =>
    obtain ⟨-, hle⟩ := hrun'.remaining_le_holdn hst'
    exact ⟨fun hearly => by omega, fun _ => ⟨rfl, hie hst'⟩⟩

end Sys2Proof.Machine

/-! ### Two machines that differ in dead registers -/

namespace Sys2Proof.Machine

/-- `s` with the engine registers of `r`. -/
def State.withEngine (s r : State) : State :=
  { s with
    sr := r.sr, bitn := r.bitn, cyc := r.cyc, ptr := r.ptr, cnt := r.cnt, mask := r.mask, holdn := r.holdn
    rcnt := r.rcnt, ieSave := r.ieSave }

/-- Two states that differ at most in engine registers that are written before they are read (R42): in all of them
while idle, in `RCNT` while a frame is sent, in all but `RCNT` during a hold. -/
inductive State.SameButDead : State → State → Prop
  | idle {s : State} (r : State) (hst : s.st = .idle) : SameButDead s (s.withEngine r)
  | send {s : State} (n : Nat) (hst : s.st = .send) : SameButDead s { s with rcnt := n }
  | hold {s : State} (r : State) (hst : s.st = .hold) (hr : r.rcnt = s.rcnt) : SameButDead s (s.withEngine r)

/-- Idle states that agree outside the engine registers are such states. -/
theorem State.SameButDead.of_agreesOutside {s t : State} (hs : s.st = .idle) (ht : t.st = .idle)
    (h : s.agreesOutside t) : s.SameButDead t := by
  have hregs : t = s.withEngine t := by
    obtain ⟨hport, hddr, hie, hmem, hresp, hwave, hbuild, hhost, houtside⟩ := h
    rw [State.withEngine, hs, ← ht, hport, hddr, hie, hmem, hresp, hwave, hbuild, hhost, houtside]
  exact hregs ▸ .idle t hs

theorem State.SameButDead.agreesOutside {s t : State} (h : s.SameButDead t) : s.st = t.st ∧ s.agreesOutside t := by
  cases h <;> exact ⟨rfl, rfl, rfl, rfl, rfl, rfl, rfl, rfl, rfl, rfl⟩

/-- Two outcomes that show the same: next states that differ in dead registers only, or the same stop. -/
inductive SameOutcome : Result → Result → Prop
  | next {s t : State} (h : s.SameButDead t) : SameOutcome (.next s) (.next t)
  | fault (f : Fault) : SameOutcome (.fault f) (.fault f)
  | refused (r : Refusal) : SameOutcome (.refused r) (.refused r)

/-- Acceptance reads no engine register and writes all of them but `RCNT` (R131, R132). -/
theorem acceptFrame_sameOutcome (count : Count) (a : Addr) (n : ByteCount) (m : Port) (h : Nat) (s r : State) :
    SameOutcome (acceptFrame count a n m h s) (acceptFrame count a n m h (s.withEngine r)) := by
  have hbusy : (s.withEngine r).busy = s.busy := rfl
  have hmem : (s.withEngine r).mem = s.mem := rfl
  simp only [acceptFrame, hbusy, hmem]
  split_ifs
  case neg =>
    cases s.mem.read a.toNat with
    | none => exact .refused _
    | some b => exact .next (.send r.rcnt rfl)
  all_goals exact .refused _

/-- An instruction executed in an idle state reads no engine register. -/
theorem exec_idle_sameOutcome (i : Instr) {s : State} (hst : s.st = .idle) (r : State) :
    SameOutcome (exec i s) (exec i (s.withEngine r)) := by
  cases i with
  | correct idx =>
    rw [correctAnswersTheTableEntry idx s hst, correctAnswersTheTableEntry idx (s.withEngine r) hst]
    exact .next (.idle r hst)
  | transmit a n m => exact acceptFrame_sameOutcome n a _ m 0 s r
  | showRgb a n => exact acceptFrame_sameOutcome n a _ _ _ s r
  | showRgbw a n => exact acceptFrame_sameOutcome n a _ _ _ s r
  | sym0 =>
    have hoff : s.st ≠ .send := by rw [hst]; decide
    rw [(symbolsStopOffTheWire s).1 (.inl hoff), (symbolsStopOffTheWire (s.withEngine r)).1 (.inl hoff)]
    exact .refused _
  | sym1 =>
    have hoff : s.st ≠ .send := by rw [hst]; decide
    rw [(symbolsStopOffTheWire s).2.1 (.inl hoff), (symbolsStopOffTheWire (s.withEngine r)).2.1 (.inl hoff)]
    exact .refused _
  | reset =>
    rw [exec_reset_idle hst, exec_reset_idle (s := s.withEngine r) hst]
    exact .next (.idle r hst)

/-- What an idle cycle can be: writes of the host, a command to execute, or a refusal; `rest` are the host's later
moves. -/
inductive IdleCycle where
  | writes (rest : List HostMove) (ws : List HostWrite)
  | command (rest : List HostMove) (i : Instr)
  | refuse (r : Refusal)

/-- The outcome of such a cycle. -/
def IdleCycle.outcome (s : State) : IdleCycle → Result
  | .writes rest ws => .next ({ s.sample with host := rest }.hostWrites ws)
  | .command rest i => exec i { s.sample with host := rest }
  | .refuse r => .refused r

/-- A word presented in a class of states is the same command, or the same reserved opcode, in all of them. -/
theorem step_of_presents {P : State → Prop} {w : CommandWord} {rest : List HostMove}
    (h : ∀ s, P s → s.presents w { s.sample with host := rest }) :
    ∃ c : IdleCycle, ∀ s, P s → step s = c.outcome s := by
  cases hd : decodeCommand w with
  | ok i => exact ⟨.command rest i, fun s hs => step_presents (h s hs) hd⟩
  | error e =>
    obtain ⟨op⟩ := e
    exact ⟨.refuse (.reservedOpcode op), fun s hs => by
      simp only [step, fetch_of_presents (h s hs), present, hd, IdleCycle.outcome]⟩

/-- The reset of an idle engine is the host's part of the cycle: none of its moves, its writes, or a command that is
ignored (R201). -/
theorem resetCycle_of_idle (moves : List HostMove) :
    ∃ rest ws, ∀ t : State, t.st = .idle → t.host = moves → resetCycle t = { t with host := rest }.hostWrites ws := by
  cases moves with
  | nil => exact ⟨[], [], fun t hst hh => by simp only [resetCycle, hh, ← hst]; rw [← hh]; rfl⟩
  | cons move rest =>
    cases move with
    | command w => exact ⟨rest, [], fun t hst hh => by simp only [resetCycle, hh, ← hst]; rfl⟩
    | idle ws => exact ⟨rest, ws, fun t hst hh => by simp only [resetCycle, hh, ← hst]⟩

/-- A cycle with `rst = 1` while idle (R200). -/
theorem step_reset {s : State} (hst : s.st = .idle) (hr : s.drive.rst = true) :
    step s = .next (resetCycle s.sample) := by
  simp only [step, fetch, hr, State.busy_eq_false.2 hst, if_true, Bool.false_eq_true, if_false]

/-- What an idle cycle is depends on the inputs and the host's moves alone. -/
theorem step_of_idle (d : OutsideDrive) (moves : List HostMove) :
    ∃ c : IdleCycle, ∀ s : State, s.st = .idle ∧ s.drive = d ∧ s.host = moves → step s = c.outcome s := by
  obtain ⟨rst, cmd⟩ := d
  cases rst with
  | true =>
    obtain ⟨rest, ws, h⟩ := resetCycle_of_idle moves
    exact ⟨.writes rest ws, fun s ⟨hst, hd, hh⟩ =>
      (step_reset hst (by rw [hd])).trans (congrArg _ (h s.sample hst hh))⟩
  | false =>
    cases cmd with
    | some w =>
      refine step_of_presents (w := w) (rest := moves) fun s ⟨hst, hd, hh⟩ => ?_
      exact ⟨hst, by rw [hd], .inl ⟨by rw [hd], by rw [← hh]; rfl⟩⟩
    | none =>
      cases moves with
      | nil =>
        refine ⟨.writes [] [], fun s ⟨hst, hd, hh⟩ => ?_⟩
        rw [step_idle_nil hst (by rw [hd]) (by rw [hd]) hh, IdleCycle.outcome, ← hh]
        rfl
      | cons move rest =>
        cases move with
        | command w =>
          refine step_of_presents (w := w) (rest := rest) fun s ⟨hst, hd, hh⟩ => ?_
          exact ⟨hst, by rw [hd], .inr ⟨by rw [hd], by rw [hh]; rfl, by rw [hh]; rfl⟩⟩
        | idle ws =>
          exact ⟨.writes rest ws, fun s ⟨hst, hd, hh⟩ => step_idle hst (by rw [hd]) (by rw [hd]) hh⟩

/-- A host write touches no engine register. -/
theorem State.hostWrites_withEngine (ws : List HostWrite) (s r : State) :
    (s.withEngine r).hostWrites ws = (s.hostWrites ws).withEngine r := by
  induction ws generalizing s with
  | nil => rfl
  | cons w ws ih =>
    have hw : (s.withEngine r).hostWrite w = (s.hostWrite w).withEngine r := by cases w <;> rfl
    exact (congrArg (State.hostWrites · ws) hw).trans (ih (s.hostWrite w))

/-- An idle step reads no engine register. -/
theorem step_idle_sameOutcome {s : State} (hst : s.st = .idle) (r : State) :
    SameOutcome (step s) (step (s.withEngine r)) := by
  obtain ⟨c, h⟩ := step_of_idle s.drive s.host
  rw [h s ⟨hst, rfl, rfl⟩, h (s.withEngine r) ⟨hst, rfl, rfl⟩]
  cases c with
  | writes rest ws =>
    have hwrites := State.hostWrites_withEngine ws { s.sample with host := rest } r
    exact .next (hwrites ▸ .idle r ((State.hostWrites_st _ ws).trans hst))
  | command rest i => exact exec_idle_sameOutcome i (s := { s.sample with host := rest }) hst r
  | refuse e => exact .refused e

/-- The end of a frame writes `RCNT` where it leads to a hold (R136). -/
theorem State.endFrame_sameButDead (s : State) (n : Nat) :
    s.endFrame.SameButDead (State.endFrame { s with rcnt := n }) := by
  by_cases h0 : s.holdn = 0
  · exact .idle (State.endFrame { s with rcnt := n }) (if_pos h0)
  · have hrcnt : (State.endFrame { s with rcnt := n }).rcnt = s.endFrame.rcnt :=
      (if_neg h0 : _ = s.holdn).trans (if_neg h0).symm
    exact .hold (State.endFrame { s with rcnt := n }) (if_neg h0) hrcnt

/-- A `SEND` cycle does not read `RCNT` (R133 to R136). -/
theorem sendCycle_sameOutcome (b : Bool) {s : State} (hst : s.st = .send) (n : Nat) :
    SameOutcome (sendCycle b s) (sendCycle b { s with rcnt := n }) := by
  have hcfg : State.cfg { s with rcnt := n } = s.cfg := rfl
  simp only [sendCycle, hcfg]
  split_ifs
  · exact .next (.send n hst)
  · exact .next (.send n hst)
  · cases s.mem.read s.ptr.toNat with
    | none => exact .fault _
    | some byte => exact .next (.send n hst)
  · exact .next (s.endFrame_sameButDead n)
  · exact .fault _

/-- A `HOLD` cycle reads `RCNT` alone of the engine registers (R137). -/
theorem holdCycle_sameOutcome {s : State} {r : State} (hr : r.rcnt = s.rcnt) :
    SameOutcome (holdCycle s) (holdCycle (s.withEngine r)) := by
  have hrcnt : (s.withEngine r).rcnt = s.rcnt := hr
  by_cases h0 : s.rcnt = 0
  · rw [holdCycle, holdCycle, if_pos h0, if_pos (hrcnt.trans h0)]
    exact .fault _
  rw [holdCycle_next.2 ⟨h0, rfl⟩, holdCycle_next.2 ⟨hrcnt.trans_ne h0, rfl⟩]
  have hstep : (s.withEngine r).holdStep = s.holdStep.withEngine (s.withEngine r).holdStep := by
    rw [State.holdStep, hrcnt]
    rfl
  rw [hstep]
  by_cases h1 : s.rcnt - 1 = 0
  · exact .next (.idle _ (if_pos h1))
  · exact .next (.hold _ (if_neg h1) (congrArg (· - 1) hrcnt))

/-- Busy machines with the same inputs are refused alike, or make the same kind of cycle. -/
theorem step_busy_sameOutcome {s t : State} (hs : s.busy = true) (ht : t.busy = true) (hd : t.drive = s.drive)
    (h : s.drive.rst = false → s.drive.cmd = none → SameOutcome (step s) (step t)) :
    SameOutcome (step s) (step t) := by
  obtain ⟨hrst, hcmd⟩ := busyMachineRefusesCommandsAndReset s hs
  obtain ⟨hrst', hcmd'⟩ := busyMachineRefusesCommandsAndReset t ht
  rw [hd] at hrst' hcmd'
  cases hr : s.drive.rst with
  | true =>
    rw [hrst hr, hrst' hr]
    exact .refused _
  | false =>
    cases hc : s.drive.cmd with
    | some w =>
      rw [hcmd w hr hc, hcmd' w hr hc]
      exact .refused _
    | none => exact h hr hc

/-- A step reads no dead register. -/
theorem State.SameButDead.step_sameOutcome {s t : State} (h : s.SameButDead t) : SameOutcome (step s) (step t) := by
  cases h with
  | idle r hst => exact step_idle_sameOutcome hst r
  | send n hst =>
    have hb : s.busy = true := State.busy_eq_true.2 (.inl hst)
    refine step_busy_sameOutcome hb hb rfl fun hr hc => ?_
    rw [step_send hst hr hc, step_send (s := { s with rcnt := n }) hst hr hc]
    exact sendCycle_sameOutcome _ (s := s.sample) hst n
  | hold r hst hrcnt =>
    have hb : s.busy = true := State.busy_eq_true.2 (.inr hst)
    refine step_busy_sameOutcome hb hb rfl fun hr hc => ?_
    rw [step_hold hst hr hc, step_hold (s := s.withEngine r) hst hr hc]
    exact holdCycle_sameOutcome (s := s.sample) hrcnt

/-- Nor do any number of steps. -/
theorem State.SameButDead.steps_sameOutcome {s t : State} (h : s.SameButDead t) (k : Nat) :
    SameOutcome (steps k s) (steps k t) := by
  induction k generalizing s t with
  | zero => exact .next h
  | succ k ih =>
    have hstep := h.step_sameOutcome
    unfold steps
    generalize step s = x, step t = y at hstep
    cases hstep with
    | next h' => exact ih h'
    | fault f => exact .fault f
    | refused r => exact .refused r

/-- Settles O51: idle states that agree outside the engine registers differ in dead registers only. -/
theorem commandsCarryNoHiddenState : Obligations.CommandsCarryNoHiddenState := by
  intro k s t hs ht h
  have hsame := (State.SameButDead.of_agreesOutside hs ht h).steps_sameOutcome k
  generalize steps k s = x, steps k t = y at hsame
  cases hsame with
  | next h' => exact .inl ⟨_, _, rfl, rfl, h'.agreesOutside⟩
  | fault f => exact .inr (.inl ⟨f, rfl, rfl⟩)
  | refused r => exact .inr (.inr ⟨r, rfl, rfl⟩)

end Sys2Proof.Machine

/-! ### No step faults -/

namespace Sys2Proof.Machine

/-- An instruction executed in an idle state is refused or gives a next state. -/
theorem exec_idle_not_fault (i : Instr) {s : State} (hst : s.st = .idle) (f : Fault) : exec i s ≠ .fault f := by
  have hoff : s.st ≠ .send := by rw [hst]; decide
  cases i with
  | correct idx => rw [correctAnswersTheTableEntry idx s hst]; nofun
  | transmit => exact acceptFrame_not_fault
  | showRgb => exact acceptFrame_not_fault
  | showRgbw => exact acceptFrame_not_fault
  | sym0 => rw [(symbolsStopOffTheWire s).1 (.inl hoff)]; nofun
  | sym1 => rw [(symbolsStopOffTheWire s).2.1 (.inl hoff)]; nofun
  | reset => rw [exec_reset_idle hst]; nofun

/-- So is an idle cycle, whatever the inputs and the host do. -/
theorem step_idle_not_fault {s : State} (hst : s.st = .idle) (f : Fault) : step s ≠ .fault f := by
  obtain ⟨c, h⟩ := step_of_idle s.drive s.host
  rw [h s ⟨hst, rfl, rfl⟩]
  cases c with
  | writes rest ws => nofun
  | command rest i => exact exec_idle_not_fault i (s := { s.sample with host := rest }) hst f
  | refuse r => nofun

/-- A busy cycle with quiet inputs has a next state: the frame was admitted (R68), and `RCNT` is not 0 (R137). -/
theorem State.Inv.exists_step {s : State} (h : s.Inv) (hb : s.busy = true) (hr : s.drive.rst = false)
    (hc : s.drive.cmd = none) : ∃ t, step s = .next t := by
  obtain ⟨-, -, hsend, hhold⟩ := h
  obtain hst | hst := State.busy_eq_true.1 hb
  · rw [step_send hst hr hc]
    exact State.sendInv.exists_sendCycle (s := s.sample) (hsend hst) s.sr.msb
  · obtain ⟨hpos, -⟩ := hhold hst
    rw [step_hold hst hr hc]
    exact ⟨_, holdCycle_next.2 ⟨Nat.one_le_iff_ne_zero.1 hpos, rfl⟩⟩

/-- A busy cycle is refused where its inputs are not quiet (R184), and has a next state where they are. -/
theorem State.Inv.busy_not_fault {s : State} (h : s.Inv) (hb : s.busy = true) (f : Fault) : step s ≠ .fault f := by
  obtain ⟨hrst, hcmd⟩ := busyMachineRefusesCommandsAndReset s hb
  cases hr : s.drive.rst with
  | true => rw [hrst hr]; nofun
  | false =>
    cases hc : s.drive.cmd with
    | some w => rw [hcmd w hr hc]; nofun
    | none =>
      obtain ⟨t, e⟩ := h.exists_step hb hr hc
      rw [e]
      nofun

/-- Settles O26: an idle step cannot fault, and the invariant rules out the faults of a busy one. -/
theorem admittedCommandsNeverFault : Obligations.AdmittedCommandsNeverFault := by
  refine fun s h => ⟨fun f => ?_, h.exists_step⟩
  cases hb : s.busy with
  | false => exact step_idle_not_fault (State.busy_eq_false.1 hb) f
  | true => exact h.busy_not_fault hb f

end Sys2Proof.Machine

/-! ### The reset of an idle engine -/

namespace Sys2Proof.Machine

/-- Settles O17: the reset cycle of a sampled state that is already idle. -/
theorem resetOfTheIdleEngineWritesNothing : Obligations.ResetOfTheIdleEngineWritesNothing := by
  intro s hst hr
  rw [step_reset hst hr]
  refine ⟨fun hh => ?_, fun w rest hh => ?_, fun ws rest hh => ?_⟩
  · simp only [resetCycle, State.sample_host, hh, ← hst]
    rw [← hh]
    rfl
  · simp only [resetCycle, State.sample_host, hh, ← hst]
    rfl
  · simp only [resetCycle, State.sample_host, hh, ← hst]
    rfl

end Sys2Proof.Machine

/-! ### Runs, one step at a time -/

namespace Sys2Proof.Machine

theorem steps_succ {k : Nat} {s t : State} :
    steps (k + 1) s = .next t ↔ ∃ u, step s = .next u ∧ steps k u = .next t := by
  cases e : step s <;> simp [steps, e]

theorem runEnd_zero {s t : State} : runEnd 0 s = some t ↔ s.runOver = true ∧ s = t := by simp [runEnd]

/-- The end of a run that is not over is that of the run from its next state; if it has none, the run has no end. -/
theorem runEnd_succ {k : Nat} {s t : State} (hover : s.runOver = false) :
    runEnd (k + 1) s = some t ↔ ∃ u, step s = .next u ∧ runEnd k u = some t := by
  cases e : step s <;> simp [runEnd, hover, e]

/-! ### The first cycle in which a run is over -/

/-- The run from `s` is over for the first time in the cycle `t`, after `j` steps. -/
def State.EndsAfter (s : State) (j : Nat) (t : State) : Prop :=
  steps j s = .next t ∧ t.runOver = true ∧ ∀ i < j, ∃ u, steps i s = .next u ∧ u.runOver = false

theorem State.endsAfter_zero {s t : State} : s.EndsAfter 0 t ↔ s.runOver = true ∧ s = t := by
  constructor
  · rintro ⟨e, hover, -⟩
    cases e
    exact ⟨hover, rfl⟩
  · rintro ⟨hover, rfl⟩
    exact ⟨rfl, hover, nofun⟩

/-- A run ends later than in this cycle if it is not over here, and then one step later than the run from its next
state. -/
theorem State.endsAfter_succ {s t : State} {j : Nat} :
    s.EndsAfter (j + 1) t ↔ s.runOver = false ∧ ∃ u, step s = .next u ∧ u.EndsAfter j t := by
  constructor
  · rintro ⟨e, hover, hbefore⟩
    obtain ⟨u, hu, e⟩ := steps_succ.1 e
    obtain ⟨_, hnow, hs⟩ := hbefore 0 (Nat.succ_pos j)
    cases hnow
    refine ⟨hs, u, hu, e, hover, fun i hi => ?_⟩
    rw [← steps_succ_of_next hu]
    exact hbefore (i + 1) (Nat.succ_lt_succ hi)
  · rintro ⟨hs, u, hu, e, hover, hbefore⟩
    refine ⟨(steps_succ_of_next hu).trans e, hover, fun i hi => ?_⟩
    cases i with
    | zero => exact ⟨s, rfl, hs⟩
    | succ i =>
      rw [steps_succ_of_next hu]
      exact hbefore i (Nat.lt_of_succ_lt_succ hi)

/-- Settles O53: `runEnd` and `State.EndsAfter` follow a run in the same way, by induction on the fuel. -/
theorem runsEndInTheFirstCycleTheyAreOver : Obligations.RunsEndInTheFirstCycleTheyAreOver := by
  intro fuel s t
  change runEnd fuel s = some t ↔ ∃ j ≤ fuel, s.EndsAfter j t
  induction fuel generalizing s with
  | zero => simp only [Nat.le_zero, exists_eq_left, runEnd_zero, State.endsAfter_zero]
  | succ fuel ih =>
    constructor
    · intro h
      cases hover : s.runOver with
      | true =>
        rw [runEnd_of_over hover] at h
        exact ⟨0, Nat.zero_le _, State.endsAfter_zero.2 ⟨hover, Option.some.inj h⟩⟩
      | false =>
        obtain ⟨u, e, h⟩ := (runEnd_succ hover).1 h
        obtain ⟨j, hj, hend⟩ := (ih u).1 h
        exact ⟨j + 1, Nat.succ_le_succ hj, State.endsAfter_succ.2 ⟨hover, u, e, hend⟩⟩
    · rintro ⟨j, hj, hend⟩
      cases j with
      | zero =>
        obtain ⟨hover, rfl⟩ := State.endsAfter_zero.1 hend
        exact runEnd_of_over hover
      | succ j =>
        obtain ⟨hover, u, e, hend⟩ := State.endsAfter_succ.1 hend
        exact (runEnd_succ hover).2 ⟨u, e, (ih u).2 ⟨j, Nat.le_of_succ_le_succ hj, hend⟩⟩

end Sys2Proof.Machine

/-! ### The cycles of a run -/

namespace Sys2Proof

/-- The cycles with `BUSY = 1` that a command takes where it is not refused: those of its frame and its hold (R140). -/
def Instr.busyCycles (c : Config) (i : Instr) : Nat :=
  match i.frameOperands c with
  | some o => 8 * o.bytes * c.nTotal + o.hold
  | none => 0

/-- The frame commands are those with operands. -/
theorem Instr.sendsFrame_eq_isSome (c : Config) (i : Instr) : i.sendsFrame = (i.frameOperands c).isSome := by
  cases i <;> rfl

end Sys2Proof

namespace Sys2Proof.Machine

/-- The same for a move of the host; a reserved opcode is refused. -/
def HostMove.busyCycles (c : Config) : HostMove → Nat
  | .idle _ => 0
  | .command w =>
    match decodeCommand w with
    | .ok i => i.busyCycles c
    | .error _ => 0

/-- The cycles that the host's moves take: one for each move, and those its command is busy for. -/
def hostCycles (c : Config) (moves : List HostMove) : Nat := (moves.map fun move => move.busyCycles c + 1).sum

/-- The cycles of a run after this one, where it is not refused: the rest of the command that runs, then the moves. -/
def State.cyclesLeft (s : State) : Nat := s.remaining + hostCycles s.cfg s.host

theorem hostCycles_cons (c : Config) (move : HostMove) (rest : List HostMove) :
    hostCycles c (move :: rest) = move.busyCycles c + 1 + hostCycles c rest := by
  simp only [hostCycles, List.map_cons, List.sum_cons]

theorem hostCycles_eq_zero {c : Config} {moves : List HostMove} : hostCycles c moves = 0 ↔ moves = [] := by
  cases moves with
  | nil => exact iff_of_true rfl rfl
  | cons move rest => exact iff_of_false (by rw [hostCycles_cons]; omega) (List.cons_ne_nil move rest)

/-- An instruction executed in an idle state begins its busy cycles, or has none, and leaves the host's moves alone. -/
theorem exec_idle_counts {i : Instr} {s t : State} (hst : s.st = .idle) (hq : s.quietInputs)
    (e : exec i s = .next t) : t.Running ∧ t.host = s.host ∧ t.remaining = i.busyCycles s.cfg := by
  cases hop : i.frameOperands s.cfg with
  | some o =>
    obtain ⟨n, hn, hexec⟩ := exec_frameOperands hop
    obtain ⟨-, hcount, hmask, hadm, b, -, rfl⟩ := acceptFrame_next.1 (hexec.symm.trans e)
    have hn0 : n ≠ 0#18 := by
      have hpos := frameOperands_bytes_pos hop hcount
      bv_omega
    refine ⟨.of_send hq rfl (State.latchFrame_sendInv b hn0 hmask (frameOperands_hold hop) hadm), rfl, ?_⟩
    simp only [State.latchFrame_remaining hn0, hn, Instr.busyCycles, hop]
  | none =>
    have hnone : i.busyCycles s.cfg = 0 := by simp only [Instr.busyCycles, hop]
    rw [hnone]
    obtain ⟨_, -, -, rfl⟩ | ⟨hframe, -⟩ | ⟨-, hbusy, -⟩ | ⟨-, hbusy, -⟩ | ⟨-, -, rfl⟩ := exec_next e
    · exact ⟨.of_idle hq hst, rfl, State.remaining_idle hst⟩
    · rw [Instr.sendsFrame_eq_isSome s.cfg, hop] at hframe
      cases hframe
    · exact absurd (hst.symm.trans hbusy) (by decide)
    · exact absurd (hst.symm.trans hbusy) (by decide)
    · exact ⟨.of_idle hq hst, rfl, State.remaining_idle hst⟩

/-- A word that decodes to a reserved opcode is refused (R84). -/
theorem step_presents_reserved {s u : State} {w : CommandWord} {op : BitVec 8} (hp : s.presents w u)
    (hd : decodeCommand w = .error (.reservedOpcode op)) : step s = .refused (.reservedOpcode op) := by
  simp only [step, fetch_of_presents hp, present, hd]

/-- An idle cycle that is not refused takes the host's next move and begins its busy cycles. -/
theorem step_idle_counts {s t : State} {move : HostMove} {rest : List HostMove} (hst : s.st = .idle)
    (hq : s.quietInputs) (hh : s.host = move :: rest) (e : step s = .next t) :
    t.Running ∧ t.host = rest ∧ t.remaining = move.busyCycles s.cfg := by
  have hd := State.quietInputs_drive hq
  have hq' := State.quietInputs_sample hq
  cases move with
  | idle ws =>
    rw [step_idle hst (by rw [hd]) (by rw [hd]) hh] at e
    cases e
    have hst' := (State.hostWrites_st { s.sample with host := rest } ws).trans hst
    exact ⟨.of_idle ((State.hostWrites_outside _ ws).trans hq') hst', State.hostWrites_host _ ws,
      State.remaining_idle hst'⟩
  | command w =>
    have hp : s.presents w { s.sample with host := rest } :=
      ⟨hst, by rw [hd], .inr ⟨by rw [hd], by rw [hh]; rfl, by rw [hh]; rfl⟩⟩
    cases hdec : decodeCommand w with
    | ok i =>
      have hmove : HostMove.busyCycles s.cfg (.command w) = i.busyCycles s.cfg := by
        simp only [HostMove.busyCycles, hdec]
      rw [hmove]
      exact exec_idle_counts (s := { s.sample with host := rest }) hst hq' ((step_presents hp hdec).symm.trans e)
    | error reserved =>
      obtain ⟨op⟩ := reserved
      cases (step_presents_reserved hp hdec).symm.trans e

/-- The run is over exactly when no cycles are left. -/
theorem State.Running.runOver_iff {s : State} (h : s.Running) : s.runOver = true ↔ s.cyclesLeft = 0 := by
  have hidle : s.st = .idle ↔ s.remaining = 0 := by
    rw [← State.busy_eq_false, ← Bool.not_eq_true, h.busy_iff, Nat.pos_iff_ne_zero, not_not]
  rw [State.cyclesLeft, Nat.add_eq_zero_iff, hostCycles_eq_zero, ← hidle, and_comm]
  simp [State.runOver]

/-- With quiet inputs a step that is not refused uses up one of the cycles that are left, if any are, whether busy or
idle. -/
theorem State.Running.step_cyclesLeft {s t : State} (h : s.Running) (e : step s = .next t) :
    t.Running ∧ t.cyclesLeft = s.cyclesLeft - 1 := by
  have hcfg : t.cfg = s.cfg := congrArg Build.cfg (noStepChangesTheBuild s t e)
  rw [State.cyclesLeft, State.cyclesLeft, hcfg]
  cases hb : s.busy with
  | true =>
    obtain ⟨u, hu, hrun, hrem⟩ := h.exists_step hb
    cases e.symm.trans hu
    obtain ⟨hhost, -⟩ := busyStepsTouchOnlyTheMaskedPins s t hb e
    rw [hhost]
    exact ⟨hrun, by omega⟩
  | false =>
    have hst := State.busy_eq_false.1 hb
    have hd := State.quietInputs_drive h.quiet
    rw [State.remaining_idle hst]
    cases hh : s.host with
    | nil =>
      rw [step_idle_nil hst (by rw [hd]) (by rw [hd]) hh] at e
      cases e
      rw [State.sample_host, hh, State.remaining_idle (s := s.sample) hst]
      exact ⟨h.sample, rfl⟩
    | cons move rest =>
      obtain ⟨hrun, hhost, hrem⟩ := step_idle_counts hst h.quiet hh e
      rw [hhost, hrem, hostCycles_cons]
      exact ⟨hrun, by omega⟩

/-- With quiet inputs no step faults, busy or idle (R183). -/
theorem State.Running.step_not_fault {s : State} (h : s.Running) (f : Fault) : step s ≠ .fault f := by
  cases hb : s.busy with
  | true =>
    obtain ⟨t, e, -⟩ := h.exists_step hb
    rw [e]
    nofun
  | false => exact step_idle_not_fault (State.busy_eq_false.1 hb) f

theorem State.Running.steps_not_fault {s : State} (h : s.Running) (k : Nat) (f : Fault) : steps k s ≠ .fault f := by
  induction k generalizing s with
  | zero => nofun
  | succ k ih =>
    unfold steps
    cases e : step s with
    | next t =>
      obtain ⟨hrun, -⟩ := h.step_cyclesLeft e
      exact ih hrun
    | fault g => exact absurd e (h.step_not_fault g)
    | refused r => nofun

/-- A run with quiet inputs has an end state exactly if it is not refused in the cycles that are left, and then it ends
after all of them. -/
theorem State.Running.runEnd_eq_some_iff {s t : State} (h : s.Running) {k : Nat} :
    runEnd k s = some t ↔ s.cyclesLeft ≤ k ∧ steps s.cyclesLeft s = .next t := by
  induction k generalizing s with
  | zero =>
    rw [runEnd_zero, h.runOver_iff, Nat.le_zero]
    exact and_congr_right fun h0 => by simp only [h0, steps, Host.Outcome.next.injEq]
  | succ k ih =>
    cases hover : s.runOver with
    | true =>
      simp only [runEnd_of_over hover, h.runOver_iff.1 hover, steps, Nat.zero_le, true_and, Option.some.injEq,
        Host.Outcome.next.injEq]
    | false =>
      obtain ⟨m, hm⟩ := Nat.exists_eq_succ_of_ne_zero (mt h.runOver_iff.2 (Bool.eq_false_iff.1 hover))
      have hnext {u : State} (e : step s = .next u) : runEnd k u = some t ↔ m ≤ k ∧ steps m u = .next t := by
        obtain ⟨hrun, hleft⟩ := h.step_cyclesLeft e
        rw [ih hrun, hleft, hm, Nat.succ_sub_one]
      rw [runEnd_succ hover, hm, Nat.succ_le_succ_iff, steps_succ, ← exists_and_left]
      exact exists_congr fun u => (and_congr_right hnext).trans and_left_comm

/-- Settles O54: a run has `State.cyclesLeft` cycles, and in an idle state they are those of the host's moves. -/
theorem everyRunIsOverOrRefused : Obligations.EveryRunIsOverOrRefused := by
  refine ⟨fun s hinv hq => ?_, fun k n s t u v hs ht hqs hqt hhost hbuild hu hv => ?_⟩
  · have hrun := hinv.running hq
    cases e : steps s.cyclesLeft s with
    | next t => exact .inl ⟨s.cyclesLeft, t, hrun.runEnd_eq_some_iff.2 ⟨Nat.le_refl _, e⟩⟩
    | fault f => exact absurd e (hrun.steps_not_fault _ f)
    | refused r => exact .inr ⟨_, r, e⟩
  · have hleft : s.cyclesLeft = t.cyclesLeft := by
      rw [State.cyclesLeft, State.cyclesLeft, State.remaining_idle hs, State.remaining_idle ht, hhost, State.cfg,
        hbuild]
    obtain ⟨hk, -⟩ := (State.Running.of_idle hqs hs).runEnd_eq_some_iff.1 hu
    have hrun := State.Running.of_idle hqt ht
    obtain ⟨-, hend⟩ := hrun.runEnd_eq_some_iff.1 hv
    exact Option.isSome_iff_exists.2 ⟨v, hrun.runEnd_eq_some_iff.2 ⟨hleft ▸ hk, hend⟩⟩

end Sys2Proof.Machine
